-- ==== Sys2Proof/Word.lean ====
section
/-! DEFINITION. The vectors of the CRC8/OVS block, one name per width (spec/00_scope.md R9, R11).
Every value is an unsigned bit vector of a stated width and nothing is signed (R11). `+` on vectors is
addition modulo `2^N` and `^^^` is bitwise exclusive-or (R12); both are core Lean's. -/

namespace Sys2Proof

/-- 8 bits: the CRC register, a CRC data byte, a channel operand (R9 `CRC_WIDTH`, `CH_OPERAND_WIDTH`). -/
abbrev Byte := BitVec 8

/-- 16 bits: a command word or a response word (R9 `CMD_WIDTH`, `RSP_WIDTH`; R60, R63). -/
abbrev Word := BitVec 16

/-- 10 bits: one sample, 0 to 1023 (R9 `SAMPLE_WIDTH`). -/
abbrev Sample := BitVec 10

/-- 14 bits: the accumulated sum (R9 `SUM_WIDTH`). -/
abbrev SumWord := BitVec 14

/-- 12 bits: the oversampled result (R9 `RES_WIDTH`). -/
abbrev ResWord := BitVec 12

/-- 5 bits: the sample counter (R9 `CNT_WIDTH`). -/
abbrev CntWord := BitVec 5

/-- 3 bits: a valid channel number, as `CH` and `s_ch` hold it (R26, R42). -/
abbrev Channel := BitVec 3

end Sys2Proof
end

