-- ==== Sys2Proof/Syntax.lean ====
section
/-! DEFINITION. The command words as syntax: the five operations, the fields of a word, the decoder's
answers, a row of the opcode table (spec/30_encoding.md R60 to R67). -/

namespace Sys2Proof

/-- The five host operations, one constructor per row of spec/opcode_table.json (R64). No operation names
a register; each acts on the registers of its own unit (R61). -/
inductive Instr where
  /-- CRC_CLR, `0x1000` (R83). -/
  | crcClr
  /-- CRC_UPD b, `0x2000 | b` (R84). -/
  | crcUpd (b : Byte)
  /-- CRC_GET, `0x3000` (R85). -/
  | crcGet
  /-- OVS_RUN ch, `0x8000 | ch` (R102). -/
  | ovsRun (ch : Byte)
  /-- OVS_GET, `0x9000` (R103). -/
  | ovsGet
  deriving DecidableEq, Repr

/-- The one format of a command word, `C16` (R60): `op = cmd[15:12]`, `zero = cmd[11:8]`, `arg = cmd[7:0]`. -/
structure CmdFields where
  op : BitVec 4
  zero : BitVec 4
  arg : Byte
  deriving DecidableEq, Repr

/-- Why a word is ILLEGAL (R67). The block itself records nothing (R68): the reason is the decoder's name
for the rejection and nothing in the machine reads it. -/
inductive Illegal where
  /-- `op` is `0x0`, `0x4` to `0x7` or `0xA` to `0xF`. -/
  | reservedOp
  /-- `op` is an operation's, `cmd[11:8]` is not zero. -/
  | zeroField
  /-- The operation takes no operand, `cmd[11:8]` is zero and `cmd[7:0]` is not. -/
  | argField
  deriving DecidableEq, Repr

/-- What the decoder answers: one of the five operations, or ILLEGAL (R65). -/
inductive Decoded where
  | legal (i : Instr)
  | illegal (why : Illegal)
  deriving DecidableEq, Repr

/-- A row of the opcode table (R64): a word `w` selects the row when `w & mask = value`. -/
structure OpRow where
  mnemonic : String
  value : Word
  mask : Word
  deriving DecidableEq, Repr

/-- Whether the operation belongs to the OVS unit (R64: `cmd[15]` tells the unit). -/
def Instr.isOvs : Instr → Bool
  | .crcClr => false
  | .crcUpd _ => false
  | .crcGet => false
  | .ovsRun _ => true
  | .ovsGet => true

end Sys2Proof
end

