-- ==== Sys2Proof/WellFormed.lean ====
section
/-! DEFINITION. Which words, taken as fields, are legal (spec/30_encoding.md R60, R67), written from the
rule's own lists and not from the decoder; and which instructions are well formed. -/

namespace Sys2Proof

/-- R67: the `op` values that are not reserved. -/
def CmdFields.opKnown (f : CmdFields) : Bool :=
  f.op == 0x1#4 || f.op == 0x2#4 || f.op == 0x3#4 || f.op == 0x8#4 || f.op == 0x9#4

/-- R64: CRC_UPD and OVS_RUN are the operations that take an operand. -/
def CmdFields.takesOperand (f : CmdFields) : Bool := f.op == 0x2#4 || f.op == 0x8#4

/-- R67: `cmd[11:8]` must be zero. -/
def CmdFields.zeroOk (f : CmdFields) : Bool := f.zero == 0#4

/-- R67: `arg` must be zero in an operation without operand. -/
def CmdFields.argOk (f : CmdFields) : Bool := f.takesOperand || f.arg == 0#8

/-- The word is legal (R67): a known operation, `zero` zero, `arg` zero where it must be. -/
def CmdFields.wf (f : CmdFields) : Bool := f.opKnown && f.zeroOk && f.argOk

/-- Every instruction is well formed: the operand of CRC_UPD is any byte (R84 "every byte value is legal")
and that of OVS_RUN any of 0 to 255 (R102), which is what their type `Byte` says. -/
def Instr.wf : Instr → Bool
  | .crcClr => true
  | .crcUpd _ => true
  | .crcGet => true
  | .ovsRun _ => true
  | .ovsGet => true

end Sys2Proof
end

