-- ==== Sys2Proof/Decode.lean ====
section
/-! DEFINITION. The decoder, total on every 16-bit word, which names why it rejects one (spec/30_encoding.md
R65, R67); the encoder; the opcode table as data (R64). -/

namespace Sys2Proof

/-! ### Fields (R60) -/

/-- R60: the three fields of a command word. -/
def fieldsOf (w : Word) : CmdFields :=
  { op := w.extractLsb' 12 4, zero := w.extractLsb' 8 4, arg := w.extractLsb' 0 8 }

/-- R60: the word with the given fields. -/
def assemble (f : CmdFields) : Word := f.op ++ f.zero ++ f.arg

/-! ### Operation codes (R64) -/

def opCrcClr : BitVec 4 := 0x1#4
def opCrcUpd : BitVec 4 := 0x2#4
def opCrcGet : BitVec 4 := 0x3#4
def opOvsRun : BitVec 4 := 0x8#4
def opOvsGet : BitVec 4 := 0x9#4

/-! ### Decoding -/

/-- R67: an operation without operand; `zero` and `arg` must both be zero. -/
def decodePlain (i : Instr) (f : CmdFields) : Decoded :=
  if f.zero ≠ 0#4 then .illegal .zeroField
  else if f.arg ≠ 0#8 then .illegal .argField
  else .legal i

/-- R62, R67: an operation whose operand is `cmd[7:0]`, with no extension, scaling or reflection; `zero`
must be zero. -/
def decodeByte (mk : Byte → Instr) (f : CmdFields) : Decoded :=
  if f.zero ≠ 0#4 then .illegal .zeroField else .legal (mk f.arg)

/-- The decoder on the fields of a word (R64, R65, R67). -/
def decodeFields (f : CmdFields) : Decoded :=
  if f.op = opCrcClr then decodePlain .crcClr f
  else if f.op = opCrcUpd then decodeByte .crcUpd f
  else if f.op = opCrcGet then decodePlain .crcGet f
  else if f.op = opOvsRun then decodeByte .ovsRun f
  else if f.op = opOvsGet then decodePlain .ovsGet f
  else .illegal .reservedOp

/-- R65: decoding is total on 16-bit words. -/
def decode (w : Word) : Decoded := decodeFields (fieldsOf w)

/-- The operation the decoder reads, none for an ILLEGAL word. -/
def instrOf (w : Word) : Option Instr :=
  match decode w with
  | .legal i => some i
  | .illegal _ => none

/-- The word decodes to one of the five operations. -/
def isLegal (w : Word) : Bool := (instrOf w).isSome

/-- The word is one that a running batch holds (R44, R66): it decodes to OVS_RUN or OVS_GET. -/
def isOvsWord (w : Word) : Bool := (instrOf w).any Instr.isOvs

/-! ### Encoding -/

/-- The fields of an operation's word (R64). -/
def fieldsFor : Instr → CmdFields
  | .crcClr => { op := opCrcClr, zero := 0#4, arg := 0#8 }
  | .crcUpd b => { op := opCrcUpd, zero := 0#4, arg := b }
  | .crcGet => { op := opCrcGet, zero := 0#4, arg := 0#8 }
  | .ovsRun ch => { op := opOvsRun, zero := 0#4, arg := ch }
  | .ovsGet => { op := opOvsGet, zero := 0#4, arg := 0#8 }

/-- The word of an operation (R64, R70). -/
def encode (i : Instr) : Word := assemble (fieldsFor i)

/-! ### The opcode table (R64) -/

def rowCrcClr : OpRow := { mnemonic := "CRC_CLR", value := 0x1000#16, mask := 0xFFFF#16 }
def rowCrcUpd : OpRow := { mnemonic := "CRC_UPD", value := 0x2000#16, mask := 0xFF00#16 }
def rowCrcGet : OpRow := { mnemonic := "CRC_GET", value := 0x3000#16, mask := 0xFFFF#16 }
def rowOvsRun : OpRow := { mnemonic := "OVS_RUN", value := 0x8000#16, mask := 0xFF00#16 }
def rowOvsGet : OpRow := { mnemonic := "OVS_GET", value := 0x9000#16, mask := 0xFFFF#16 }

/-- R64's five rows, in its order. -/
def opTable : List OpRow := [rowCrcClr, rowCrcUpd, rowCrcGet, rowOvsRun, rowOvsGet]

/-- R64: a word selects a row when `w & mask = match`. -/
def OpRow.selects (r : OpRow) (w : Word) : Bool := w &&& r.mask == r.value

/-- The row an operation stands on. -/
def rowOf : Instr → OpRow
  | .crcClr => rowCrcClr
  | .crcUpd _ => rowCrcUpd
  | .crcGet => rowCrcGet
  | .ovsRun _ => rowOvsRun
  | .ovsGet => rowOvsGet

/-- R65's legal words, listed as it counts them: `1 + 256 + 1 + 256 + 1`. -/
def legalWords : List Word :=
  [0x1000#16] ++ (List.range 256).map (fun n => BitVec.ofNat 16 (0x2000 + n)) ++ [0x3000#16] ++
    (List.range 256).map (fun n => BitVec.ofNat 16 (0x8000 + n)) ++ [0x9000#16]

/-- The decoder's answer on `nbits` bits numbered as spec/opcode_table.json numbers them. A command word is
one indivisible 16-bit unit (R50), so bit `n` is `cmd[n]`, bits above `nbits` are zero, and nothing longer
than 16 bits is an instruction. -/
def decodeTableWord (nbits w : Nat) : Option Instr :=
  if nbits ≤ 16 then instrOf (BitVec.ofNat 16 (w % 2 ^ nbits)) else none

end Sys2Proof
end

