-- ==== Sys2Proof/Config.lean ====
section
/-! DEFINITION. The parameters of the block, at the values this hardware takes (spec/00_scope.md R9).
R9: a model may name them as configuration constants but must give them these values. The block has no
free value of its own: the one thing the spec leaves open, the samples, is an input (see State). -/

namespace Sys2Proof.Config

/-- R9 `CRC_POLY`: the polynomial, its `x^8` term implicit. -/
def crcPoly : Byte := 0x07#8

/-- R9 `CRC_INIT`: the value a CRC computation starts from. -/
def crcInit : Byte := 0x00#8

/-- R9 `CRC_DATA_WIDTH`, R81: rounds per absorbed byte. -/
def crcRoundsPerByte : Nat := 8

/-- R9 `OVS_BITS`: fixed in hardware (92_eei_decisions.md D24). -/
def ovsBits : Nat := 2

/-- R9 `OVS_COUNT`, R10: samples per batch, `4 ^ OVS_BITS`. -/
def ovsCount : Nat := 4 ^ ovsBits

/-- R9 `OVS_SHIFT`, R10: the right shift of the sum, `OVS_BITS`. -/
def ovsShift : Nat := ovsBits

/-- R9 `CHANNELS`: valid channels are 0 to 7 (90_conflicts.md C1). -/
def channels : Nat := 8

end Sys2Proof.Config
end

