-- ==== Sys2Proof/Machine/State.lean ====
section
/-! DEFINITION. The state: the block's five registers (spec/10_state.md R20) and, kept apart from them, what
the step relation takes as its parameters (spec/00_scope.md R8): the host's words, the source's samples, whose
turn it is, and the responses the host has received. -/

namespace Sys2Proof.Machine

/-- Who acts at the next clock edge (R6, R7): one of the three agents, or the host and the source at the same
edge (R134, R153). -/
inductive Turn where
  /-- The host offers its next word: `step_cmd` (R66). -/
  | host
  /-- The sample source presents its next sample: `step_sample` (R104). -/
  | source
  /-- The host offers a word and the source presents a sample at one edge (R153). -/
  | both
  /-- `rst` is asserted: `step_reset` (R150). A host need keep a held word only until `rst` is asserted (R43);
  `hostKeeps` says whether it goes on offering the word it had (R151). -/
  | reset (hostKeeps : Bool)
  deriving DecidableEq, Repr

/-- The machine. The first five fields are the whole architectural state of the block, 27 bits (R20). The last
four are not state of the block (R8, R30): they are the agents' side of the ports, held here so that a step is a
function of the state alone (notes/assumptions 1). -/
structure State where
  /-- `CRC`, the CRC-8 register (R21). -/
  crc : Byte
  /-- `SUM`, the running sum of the current or last batch (R22). -/
  sum : SumWord
  /-- `CNT`, how many samples of the batch have been added, 0 to 16 (R25). -/
  cnt : CntWord
  /-- `CH`, the channel the batch requests (R26). -/
  ch : Channel
  /-- `BUSY`, a batch is running (R27). -/
  busy : Bool
  /-- The host's command words still to be accepted; the first is the one it offers (R8, R43). -/
  words : List Word
  /-- The source's samples still to be delivered, in order (R8, R18). -/
  samples : List Sample
  /-- Who acts at each of the coming edges (R18: the interleaving). -/
  turns : List Turn
  /-- The response words the host has received, oldest first (R18, R46). -/
  responses : List Word
  deriving DecidableEq, Repr

/-- Why a step stops with a fault. There is no reason: the block raises no exception (R130) and no behaviour of
it is to be treated as a fault (93_implementation_defined.md, end of part 1). -/
inductive Fault : Type
  deriving DecidableEq, Repr

/-- Why a step has no meaning. -/
inductive Refusal where
  /-- An arm of `exec` that has no meaning yet. No arm raises it: every operation has its meaning. Safe. -/
  | notModelled (mnemonic : String)
  deriving DecidableEq, Repr

/-- The machine right after reset: R32's value for each of the five registers, nothing offered, nothing in
flight (R18). -/
def State.reset : State :=
  { crc := 0x00#8, sum := 0#14, cnt := 0#5, ch := 0#3, busy := false,
    words := [], samples := [], turns := [], responses := [] }

end Sys2Proof.Machine
end

