-- ==== Sys2Proof/Machine/Operands.lean ====
section
/-! DEFINITION. Operands and responses: the channel operand, the sample, the slices and zero-extensions
(spec/30_encoding.md R62, R63; spec/10_state.md R24). Nothing is sign-extended (R59). -/

namespace Sys2Proof.Machine

/-- R41, R100: the channel operand names one of the channels 0 to 7, compared unsigned on all eight bits. -/
def channelValid (ch : Byte) : Bool := decide (ch.toNat < Config.channels)

/-- R26, R62: what `CH` latches, the low three bits of the operand. -/
def channelLatch (ch : Byte) : Channel := ch.extractLsb' 0 3

/-- R100 `Sample(ch, v)`: the gate on a sample request. -/
def sampleGate (ch : Byte) (v : Sample) : Sample := if channelValid ch then v else 0#10

/-- R59, R62: `zext_14(v)`, the sample as it is added. -/
def zext14 (v : Sample) : SumWord := v.setWidth 14

/-- R24: `RES`, the slice `SUM[13:2]`; not a register. -/
def resultOf (sum : SumWord) : ResWord := sum.extractLsb' Config.ovsShift 12

/-- R63: the response of CRC_GET, `zext_16(CRC)`. -/
def crcResponse (crc : Byte) : Word := crc.setWidth 16

/-- R63: the response of OVS_GET, `zext_16(SUM[13:2])`. -/
def ovsResponse (sum : SumWord) : Word := (resultOf sum).setWidth 16

/-- R49: `highByte = rsp[15:8]`. The split itself is the software's. -/
def highByte (rsp : Word) : Byte := rsp.extractLsb' 8 8

/-- R49: `lowByte = rsp[7:0]`. -/
def lowByte (rsp : Word) : Byte := rsp.extractLsb' 0 8

end Sys2Proof.Machine
end

