-- ==== Sys2Proof/Machine/Flags.lean ====
section
/-! DEFINITION. The block's one flag, `BUSY`, and the counter it follows (spec/10_state.md R25, R27). There is
no carry, zero, overflow or error flag (R27). -/

namespace Sys2Proof.Machine

/-- R102: the count an accepted OVS_RUN writes: 0 for a valid channel, 16 for an invalid one. -/
def cntAfterRun (ch : Byte) : CntWord := if channelValid ch then 0#5 else BitVec.ofNat 5 Config.ovsCount

/-- R102: the flag an accepted OVS_RUN writes: set exactly for a valid channel. -/
def busyAfterRun (ch : Byte) : Bool := channelValid ch

/-- R104: `CNT + 1`. -/
def cntAfterSample (cnt : CntWord) : CntWord := cnt + 1#5

/-- R104: the delivery that brings the count to 16 clears `BUSY`; any other leaves it. -/
def busyAfterSample (cnt : CntWord) (busy : Bool) : Bool :=
  if cntAfterSample cnt = BitVec.ofNat 5 Config.ovsCount then false else busy

end Sys2Proof.Machine
end

