-- ==== Sys2Proof/Machine/Ops.lean ====
section
/-! DEFINITION. The operations every meaning is written over: a word is accepted or held, a response is given,
reset. The block has no memory (spec/20_memory.md R40), and it takes no exception and returns from none
(spec/60_exceptions.md R130, R135, R136), so there is no operation for either. -/

namespace Sys2Proof.Machine

/-- R43: the offered word is accepted, and the host's next word stands on the port. -/
def State.accept (s : State) : State := { s with words := s.words.tail }

/-- R7, R66: the offered word is held. Nothing changes and the same word stays on the port. -/
def State.hold (s : State) : State := s

/-- R13 `respond(v)`, R46: the step's response, which the host takes in the same step. -/
def State.respond (v : Word) (s : State) : State := { s with responses := s.responses ++ [v] }

/-- R68: an ILLEGAL word is accepted, with no effect and no response. -/
def State.acceptIllegal (s : State) : State := s.accept

/-- R150: every register takes its reset value of R32. -/
def State.stepReset (s : State) : State :=
  { s with
    crc := State.reset.crc, sum := State.reset.sum, cnt := State.reset.cnt, ch := State.reset.ch,
    busy := State.reset.busy }

/-- R43, R151: at an edge with `rst` asserted the host goes on offering its word or gives it up. -/
def State.hostAtReset (keeps : Bool) (s : State) : State :=
  if keeps then s else { s with words := s.words.tail }

/-- The host offers `w` at the next edge, before anything else it or another agent does. -/
def State.offerNext (w : Word) (s : State) : State :=
  { s with words := w :: s.words, turns := .host :: s.turns }

end Sys2Proof.Machine
end

