-- ==== Sys2Proof/Machine/Crc.lean ====
section
/-! DEFINITION. The CRC unit: the pure functions and the three operations (spec/40_crc8.md). -/

namespace Sys2Proof.Machine

/-! ### The pure functions -/

/-- R80: one round. The top bit is tested before the shift and discarded by it; the polynomial is XORed into
the shifted value. -/
def crcRound (r : Byte) : Byte := if r.msb then (r <<< 1) ^^^ Config.crcPoly else r <<< 1

/-- `n` rounds. -/
def crcRounds : Nat → Byte → Byte
  | 0, r => r
  | n + 1, r => crcRounds n (crcRound r)

/-- R81: the byte is XORed in whole and unreflected, then exactly eight rounds follow. -/
def crcByte (r b : Byte) : Byte := crcRounds Config.crcRoundsPerByte (r ^^^ b)

/-- R84, R154: absorbing the bytes of a message, first byte first, from a given register value. -/
def crcFold (r : Byte) (m : List Byte) : Byte := m.foldl crcByte r

/-- R120: `crc8` of a byte sequence. The result is the register itself: no reflection, no final XOR. -/
def crc8 (m : List Byte) : Byte := crcFold Config.crcInit m

/-! ### The operations. Each is accepted in every state, also while a batch runs (R44). -/

/-- R83: CRC_CLR. -/
def execCrcClr (s : State) : Host.Outcome State Fault Refusal :=
  .next { s.accept with crc := Config.crcInit }

/-- R84: CRC_UPD b, one atomic step. -/
def execCrcUpd (b : Byte) (s : State) : Host.Outcome State Fault Refusal :=
  .next { s.accept with crc := crcByte s.crc b }

/-- R85: CRC_GET. The register is returned as it is and not cleared. -/
def execCrcGet (s : State) : Host.Outcome State Fault Refusal :=
  .next (s.accept.respond (crcResponse s.crc))

end Sys2Proof.Machine
end

