-- ==== Sys2Proof/Machine/Ovs.lean ====
section
/-! DEFINITION. The OVS unit: the pure functions, the two operations, and the delivery of a sample
(spec/41_oversampling.md). -/

namespace Sys2Proof.Machine

/-! ### The pure functions -/

/-- R101 `ovs_sum`: the samples zero-extended to 14 bits and added. -/
def ovsSum (vs : List Sample) : SumWord := vs.foldl (fun acc v => acc + zext14 v) 0#14

/-- R101 `ovs_res`: the sum's bits 13 to 2. -/
def ovsRes (vs : List Sample) : ResWord := resultOf (ovsSum vs)

/-- R122: the document's `readOversampled(ch)`, for the values the source would deliver. -/
def readOversampled (ch : Byte) (vs : List Sample) : ResWord := ovsRes (vs.map (sampleGate ch))

/-! ### The operations. Each is held while a batch runs (R66, R102, R103). -/

/-- R102: the four registers an accepted OVS_RUN writes. -/
def State.startBatch (ch : Byte) (s : State) : State :=
  { s with ch := channelLatch ch, sum := 0#14, cnt := cntAfterRun ch, busy := busyAfterRun ch }

/-- R102: OVS_RUN ch. An invalid channel completes in this step (R111) and raises nothing (R131). -/
def execOvsRun (ch : Byte) (s : State) : Host.Outcome State Fault Refusal :=
  if s.busy then .next s.hold else .next (s.accept.startBatch ch)

/-- R103: OVS_GET. The sum is not cleared. -/
def execOvsGet (s : State) : Host.Outcome State Fault Refusal :=
  if s.busy then .next s.hold else .next (s.accept.respond (ovsResponse s.sum))

/-! ### The event of the sample source -/

/-- R104: SAMPLE v, the effect on the registers of one delivery. -/
def State.addSample (v : Sample) (s : State) : State :=
  { s with
    sum := s.sum + zext14 v, cnt := cntAfterSample s.cnt, busy := busyAfterSample s.cnt s.busy }

/-- R45, R104: the source's turn. A sample is delivered only while `BUSY = 1`, and is then consumed (R52); while
`BUSY = 0` nothing the source presents is taken. A source with nothing to deliver leaves the block as it was
(R112). -/
def State.sourceTurn (s : State) : State :=
  if s.busy then
    match s.samples with
    | [] => s
    | v :: vs => ({ s with samples := vs } : State).addSample v
  else s

end Sys2Proof.Machine
end

