-- ==== Sys2Proof/Machine/Turns.lean ====
section
/-! DEFINITION. What happens at one clock edge, whoever acts (spec/00_scope.md R7; spec/60_exceptions.md R134;
spec/70_reset_and_hazards.md R150 to R153). -/

namespace Sys2Proof.Machine

/-- R66 `step_cmd`: the word the host offers is decoded and performed, held, or accepted as ILLEGAL (R68). A host
with no word left offers nothing (R17). -/
def hostTurn (s : State) : Host.Outcome State Fault Refusal :=
  match s.words with
  | [] => .next s
  | w :: _ =>
    match decode w with
    | .legal i => exec i s
    | .illegal _ => .next s.acceptIllegal

/-- R134 (b), (c), R153: a command and a delivery at one edge. Whether the sample is delivered is decided by
`BUSY` before the edge, and a command is held by that same `BUSY`, also at the edge of the sixteenth delivery. -/
def bothTurn (s : State) : Host.Outcome State Fault Refusal :=
  match s.busy with
  | false => hostTurn s
  | true =>
    match hostTurn s with
    | .next t => .next t.sourceTurn
    | .fault r => .fault r
    | .refused r => .refused r

/-- One turn of the agents. -/
def runTurn (t : Turn) (s : State) : Host.Outcome State Fault Refusal :=
  match t with
  | .host => hostTurn s
  | .source => .next s.sourceTurn
  | .both => bothTurn s
  | .reset keeps => .next (s.hostAtReset keeps).stepReset

/-- The next turn is taken. With no turn to come no agent acts and nothing changes: the block never times out and
never stops of its own accord (R17, R18; notes/assumptions 2). -/
def takeTurn (s : State) : Host.Outcome State Fault Refusal :=
  match s.turns with
  | [] => .next s
  | t :: ts => runTurn t { s with turns := ts }

end Sys2Proof.Machine
end

