-- ==== Sys2Proof/Machine/Step.lean ====
section
/-! DEFINITION. One step of the machine, and the placing of a word where the next step takes its command from. -/

namespace Sys2Proof.Machine

/-- One step (spec/00_scope.md R7): whoever's turn it is acts, atomically. -/
def step (s : State) : Host.Outcome State Fault Refusal := takeTurn s

/-- `s` with the word `w` of `nbits` bits offered by the host at the very next edge. The block fetches nothing
(R29, R58): the place a command is taken from is the head of what the host offers (notes/assumptions 9). -/
def State.withFetchWord (s : State) (nbits w : Nat) : State :=
  s.offerNext (BitVec.ofNat 16 (w % 2 ^ nbits))

end Sys2Proof.Machine
end

