-- ==== Sys2Proof/Machine/Composite.lean ====
section
/-! DEFINITION. The two pseudo-instructions as the command words they expand to (spec/30_encoding.md R71;
spec/42_composite.md R121, R123). -/

namespace Sys2Proof.Machine

/-- R71: `CRC8 b0, ..., bn-1` as operations. -/
def crc8Ops (m : List Byte) : List Instr := [.crcClr] ++ m.map .crcUpd ++ [.crcGet]

/-- R121: `CRC8 b0, ..., bn-1` as its `n + 2` command words. -/
def crc8Words (m : List Byte) : List Word := (crc8Ops m).map encode

/-- R71: `READ_OVS ch` as operations. -/
def readOvsOps (ch : Byte) : List Instr := [.ovsRun ch, .ovsGet]

/-- R123: `READ_OVS ch` as its two command words. -/
def readOvsWords (ch : Byte) : List Word := (readOvsOps ch).map encode

end Sys2Proof.Machine
end

