-- ==== Sys2Proof/Machine/Pins.lean ====
section
/-! DEFINITION. The block at its pins (spec/20_memory.md R42 to R46): the outputs as combinational functions of the
registers and the inputs, and every register's next value at a rising edge of `clk`. It is written from the pin rules,
the match and mask of R64 and the bit equations of R82 (b), and neither calls the decoder nor `exec`: it is the second
description of the block that the step relation is compared with. -/

namespace Sys2Proof.Machine

/-- The five registers alone (R20). -/
structure Regs where
  crc : Byte
  sum : SumWord
  cnt : CntWord
  ch : Channel
  busy : Bool
  deriving DecidableEq, Repr

/-- The input pins of R42 at one edge of `clk`. -/
structure PinsIn where
  rst : Bool
  cmdValid : Bool
  cmd : Word
  sValid : Bool
  sData : Sample
  deriving DecidableEq, Repr

/-- The output pins of R42. -/
structure PinsOut where
  cmdReady : Bool
  rspValid : Bool
  rsp : Word
  sReq : Bool
  sCh : Channel
  deriving DecidableEq, Repr

/-- The block's registers, without the agents' side of the ports. -/
def State.regs (s : State) : Regs :=
  { crc := s.crc, sum := s.sum, cnt := s.cnt, ch := s.ch, busy := s.busy }

/-- R44: `cmd_ready`. -/
def cmdReady (rst busy : Bool) (cmd : Word) : Bool :=
  !rst && !(busy && (rowOvsRun.selects cmd || rowOvsGet.selects cmd))

/-- R43: the offered word is accepted at this edge. -/
def pinAccepted (r : Regs) (p : PinsIn) : Bool := p.cmdValid && cmdReady p.rst r.busy p.cmd

/-- R45: a sample is delivered at this edge. -/
def pinDelivered (r : Regs) (p : PinsIn) : Bool := !p.rst && r.busy && p.sValid

/-- R46: `rsp_valid`. -/
def pinRspValid (r : Regs) (p : PinsIn) : Bool :=
  pinAccepted r p && (rowCrcGet.selects p.cmd || rowOvsGet.selects p.cmd)

/-- R46: `rsp`, `0x0000` in every cycle without a response. -/
def pinRsp (r : Regs) (p : PinsIn) : Word :=
  if pinRspValid r p then
    if rowCrcGet.selects p.cmd then 0x00#8 ++ r.crc else 0#4 ++ r.sum.extractLsb' 2 12
  else 0x0000#16

/-- The output pins (R44, R45, R46): `s_req` and `s_ch` come straight from the registers. -/
def pinOut (r : Regs) (p : PinsIn) : PinsOut :=
  { cmdReady := cmdReady p.rst r.busy p.cmd, rspValid := pinRspValid r p, rsp := pinRsp r p,
    sReq := r.busy, sCh := r.ch }

/-- R82 (b): the eight bit equations of a one-cycle CRC update, `c = r ^ b`. -/
def crcByteBits (r b : Byte) : Byte :=
  let c := r ^^^ b
  let k (i : Nat) : Bool := c.getLsbD i
  BitVec.ofBoolListLE
    [k 0 ^^ k 6 ^^ k 7, k 0 ^^ k 1 ^^ k 6, k 0 ^^ k 1 ^^ k 2 ^^ k 6, k 1 ^^ k 2 ^^ k 3 ^^ k 7,
     k 2 ^^ k 3 ^^ k 4, k 3 ^^ k 4 ^^ k 5, k 4 ^^ k 5 ^^ k 6, k 5 ^^ k 6 ^^ k 7]

/-- An accepted OVS_RUN at this edge. -/
def pinRun (r : Regs) (p : PinsIn) : Bool := pinAccepted r p && rowOvsRun.selects p.cmd

/-- R102 on the pins: the operand `cmd[7:0]` is below 8 exactly when `cmd[7:3]` is zero. -/
def pinRunValid (p : PinsIn) : Bool := p.cmd.extractLsb' 3 5 == 0#5

/-- The next value of `CRC` (R83, R84, R150). -/
def crcNext (r : Regs) (p : PinsIn) : Byte :=
  if p.rst then 0x00#8
  else if pinAccepted r p && rowCrcClr.selects p.cmd then 0x00#8
  else if pinAccepted r p && rowCrcUpd.selects p.cmd then crcByteBits r.crc (p.cmd.extractLsb' 0 8)
  else r.crc

/-- The next value of `SUM` (R102, R104, R150). -/
def sumNext (r : Regs) (p : PinsIn) : SumWord :=
  if p.rst then 0#14
  else if pinRun r p then 0#14
  else if pinDelivered r p then r.sum + (0#4 ++ p.sData)
  else r.sum

/-- The next value of `CNT` (R102, R104, R150). -/
def cntNext (r : Regs) (p : PinsIn) : CntWord :=
  if p.rst then 0#5
  else if pinRun r p then (if pinRunValid p then 0#5 else 16#5)
  else if pinDelivered r p then r.cnt + 1#5
  else r.cnt

/-- The next value of `CH` (R102, R150). -/
def chNext (r : Regs) (p : PinsIn) : Channel :=
  if p.rst then 0#3
  else if pinRun r p then p.cmd.extractLsb' 0 3
  else r.ch

/-- The next value of `BUSY` (R102, R104, R150). -/
def busyNext (r : Regs) (p : PinsIn) : Bool :=
  if p.rst then false
  else if pinRun r p then pinRunValid p
  else if pinDelivered r p && r.cnt == 15#5 then false
  else r.busy

/-- R42: every state change happens at a rising edge of `clk`. -/
def pinEdge (r : Regs) (p : PinsIn) : Regs :=
  { crc := crcNext r p, sum := sumNext r p, cnt := cntNext r p, ch := chNext r p, busy := busyNext r p }

/-- R43: the offered word is held at this edge. -/
def pinHeld (r : Regs) (p : PinsIn) : Bool := !p.rst && p.cmdValid && !cmdReady p.rst r.busy p.cmd

/-- R43: after an edge at which the word on `p` was held, the host still drives that word at the next edge `p'`, unless
`rst` is asserted there. -/
def hostKeepsHeldWord (r : Regs) (p p' : PinsIn) : Bool :=
  !pinHeld r p || p'.rst || (p'.cmdValid && p'.cmd == p.cmd)

/-- The registers after a sequence of edges. `none` refuses a stimulus in which the host changes or withdraws a held word
(93_implementation_defined.md U6). -/
def pinEdges : Regs → List PinsIn → Option Regs
  | r, [] => some r
  | r, [p] => some (pinEdge r p)
  | r, p :: p' :: ps => if hostKeepsHeldWord r p p' then pinEdges (pinEdge r p) (p' :: ps) else none

/-- What the agents drive at the edge of turn `t`. An agent that does not act drives its valid pin low. -/
def State.pins (t : Turn) (s : State) : PinsIn :=
  match t with
  | .host =>
    { rst := false, cmdValid := !s.words.isEmpty, cmd := s.words.headD 0#16, sValid := false, sData := 0#10 }
  | .source =>
    { rst := false, cmdValid := false, cmd := 0#16, sValid := !s.samples.isEmpty, sData := s.samples.headD 0#10 }
  | .both =>
    { rst := false, cmdValid := !s.words.isEmpty, cmd := s.words.headD 0#16, sValid := !s.samples.isEmpty,
      sData := s.samples.headD 0#10 }
  | .reset _ =>
    { rst := true, cmdValid := !s.words.isEmpty, cmd := s.words.headD 0#16, sValid := !s.samples.isEmpty,
      sData := s.samples.headD 0#10 }

end Sys2Proof.Machine
end

