-- ==== Sys2Proof/Safety.lean ====
section
/-! DEFINITION. What the statements are made of: the invariants of spec/10_state.md R31, runs of several steps, and the
shape of a list of turns. A safe step is one that answers a next state; by R130 every step is. -/

namespace Sys2Proof.Machine

/-- R31 I-a to I-d. -/
structure Inv (s : State) : Prop where
  /-- I-a. -/
  running : s.busy = true → s.cnt.toNat ≤ 15
  /-- I-b. -/
  atRest : s.busy = false → s.cnt.toNat = 0 ∨ s.cnt.toNat = 16
  /-- I-c. -/
  sumBound : s.sum.toNat ≤ 1023 * s.cnt.toNat
  /-- I-d. -/
  cntBound : s.cnt.toNat ≤ 16

/-- `n` steps of the machine, through the host's own `Core.run`. -/
def runFor (n : Nat) (s : State) : Host.Outcome State Fault Refusal := Host.Core.run Sys2Proof.core n s

/-- The host offers a word in this turn. -/
def Turn.hostActs : Turn → Bool
  | .host => true
  | .source => false
  | .both => true
  | .reset _ => false

/-- The source presents a sample in this turn. -/
def Turn.sourceActs : Turn → Bool
  | .host => false
  | .source => true
  | .both => true
  | .reset _ => false

/-- The turn asserts `rst`. -/
def Turn.isReset : Turn → Bool
  | .host => false
  | .source => false
  | .both => false
  | .reset _ => true

/-- The state a run starts in (R18): the reset state, with the words the host will offer, the samples the source will
deliver and their interleaving. -/
def State.launch (words : List Word) (samples : List Sample) (turns : List Turn) : State :=
  { State.reset with words := words, samples := samples, turns := turns }

/-- A run ends when the last command word has been accepted (R18). A run held for ever does not end (D27). DESIGN CHOICE:
R18 lists no reset in a run; here a run whose host gives up its last, never accepted word at a reset (R43) has ended too
(notes/assumptions 17). -/
def State.runEnded (s : State) : Bool := s.words.isEmpty

/-- The word that is performed or held at this edge: the head of what the host offers, if it acts. -/
def State.offered (s : State) : Option Word :=
  match s.turns with
  | [] => none
  | t :: _ => if t.hostActs then s.words.head? else none

/-- The sample that is presented at this edge: the head of what the source has, if it acts. -/
def State.presented (s : State) : Option Sample :=
  match s.turns with
  | [] => none
  | t :: _ => if t.sourceActs then s.samples.head? else none

/-- `rst` is asserted at this edge. -/
def State.resetNow (s : State) : Bool := s.turns.head?.any Turn.isReset

end Sys2Proof.Machine
end

