-- ==== Sys2Proof/Certificates/Slice0/Obligations.lean ====
section
/-! DEFINITION. The statements about the CRC8/OVS block. Each docstring names the rule of spec/ it formalises. Where a
statement speaks of turns, words offered or samples presented, these are the model's way of holding what the spec makes
parameters of the step relation (R8; notes/assumptions 1), and the statement is about every one of them. -/

open Sys2Proof Sys2Proof.Machine

/-! ### Encoding (spec/30_encoding.md) -/

/-- R64: the five rows; a word selects a row exactly when it decodes to that row's operation; no two rows overlap; the
all-zeros and all-ones words are illegal; `cmd[15]` tells the unit; and each operation's response. -/
def Obligations.OpTableRowsSelectTheDecodedOperation : Prop :=
  (opTable.map (fun r => (r.mnemonic, r.value, r.mask)) =
      [("CRC_CLR", 0x1000#16, 0xFFFF#16), ("CRC_UPD", 0x2000#16, 0xFF00#16), ("CRC_GET", 0x3000#16, 0xFFFF#16),
       ("OVS_RUN", 0x8000#16, 0xFF00#16), ("OVS_GET", 0x9000#16, 0xFFFF#16)]) ∧
  (∀ w : Word, ∀ r ∈ opTable, r.selects w = true ↔ ∃ i, decode w = .legal i ∧ rowOf i = r) ∧
  (∀ w : Word, ∀ r ∈ opTable, ∀ r' ∈ opTable, r.selects w = true → r'.selects w = true → r = r') ∧
  (isLegal 0x0000#16 = false ∧ isLegal 0xFFFF#16 = false) ∧
  (∀ (w : Word) (i : Instr), decode w = .legal i → w.getLsbD 15 = i.isOvs) ∧
  (∀ (i : Instr) (s t : State), s.busy = false → exec i s = .next t →
    t.responses = s.responses ++
      match i with
      | .crcClr => []
      | .crcUpd _ => []
      | .crcGet => [s.crc.setWidth 16]
      | .ovsRun _ => []
      | .ovsGet => [(s.sum.extractLsb' 2 12).setWidth 16])

/-- R65: the decoder is the rule's chain of comparisons on every word; 515 words are legal and 65021 are not. -/
def Obligations.DecodeIsTheRulesChainOfComparisons : Prop :=
  (∀ w : Word, instrOf w =
    if w = 0x1000#16 then some .crcClr
    else if w.extractLsb' 8 8 = 0x20#8 then some (.crcUpd (w.extractLsb' 0 8))
    else if w = 0x3000#16 then some .crcGet
    else if w.extractLsb' 8 8 = 0x80#8 then some (.ovsRun (w.extractLsb' 0 8))
    else if w = 0x9000#16 then some .ovsGet
    else none) ∧
  (∀ w : Word, isLegal w = true ↔ w ∈ legalWords) ∧ legalWords.Nodup ∧
  legalWords.length = 515 ∧ legalWords.length + 65021 = 2 ^ 16

/-- Decode and encode agree, both ways: a word decodes to an operation exactly when it is that operation's word. Every
instruction is well formed (its operand is any byte), so none is shut out. -/
def Obligations.WordDecodesExactlyToWhatItEncodes : Prop :=
  ∀ (w : Word) (i : Instr), decode w = .legal i ↔ w = encode i

/-- Words written out from R64's patterns, as V30 lists them. -/
def Obligations.WordsWrittenOutDecode : Prop :=
  decode 0x1000#16 = .legal .crcClr ∧ decode 0x2000#16 = .legal (.crcUpd 0x00#8) ∧
  decode 0x20FF#16 = .legal (.crcUpd 0xFF#8) ∧ decode 0x3000#16 = .legal .crcGet ∧
  decode 0x8007#16 = .legal (.ovsRun 7#8) ∧ decode 0x8008#16 = .legal (.ovsRun 8#8) ∧
  decode 0x9000#16 = .legal .ovsGet

/-- R67: `cmd[11:8]` must be zero, `cmd[7:0]` must be zero in CRC_CLR, CRC_GET and OVS_GET, the other `op` values are
reserved; a word that breaks one of these is ILLEGAL, and there is no other illegal word. -/
def Obligations.ReservedFieldsMakeAWordIllegal : Prop :=
  (∀ w : Word, w.extractLsb' 8 4 ≠ 0#4 → isLegal w = false) ∧
  (∀ w : Word, w.extractLsb' 12 4 ∈ [0x1#4, 0x3#4, 0x9#4] → w.extractLsb' 0 8 ≠ 0#8 → isLegal w = false) ∧
  (∀ w : Word, w.extractLsb' 12 4 ∈
      [0x0#4, 0x4#4, 0x5#4, 0x6#4, 0x7#4, 0xA#4, 0xB#4, 0xC#4, 0xD#4, 0xE#4, 0xF#4] → isLegal w = false) ∧
  (∀ w : Word, isLegal w = (fieldsOf w).wf)

/-- R63: a response word is the register or the slice, zero-extended; it carries no opcode, tag or status bit. -/
def Obligations.ResponseWordsAreZeroExtended : Prop :=
  (∀ crc : Byte, (crcResponse crc).extractLsb' 8 8 = 0x00#8 ∧ (crcResponse crc).extractLsb' 0 8 = crc) ∧
  (∀ sum : SumWord, (ovsResponse sum).extractLsb' 12 4 = 0#4 ∧
    (ovsResponse sum).extractLsb' 0 12 = sum.extractLsb' 2 12)

/-- R49: the two bytes of a reading. The word splits into `highByte` and `lowByte`, high first, and the upper four bits
of `highByte` are zero. -/
def Obligations.ReadingSplitsIntoHighAndLowByte : Prop :=
  (∀ rsp : Word, highByte rsp ++ lowByte rsp = rsp) ∧
  (∀ sum : SumWord, (highByte (ovsResponse sum)).extractLsb' 4 4 = 0#4 ∧
    (highByte (ovsResponse sum)).toNat * 256 + (lowByte (ovsResponse sum)).toNat = (resultOf sum).toNat)

/-! ### The command step (spec/30_encoding.md R66, R68) -/

/-- A step performs the decoded instruction: when it is the host's turn and the word it offers decodes to `i`, the step
is `exec i` once the turn is used up. At an edge with a delivery (`both`) it is the same while no batch runs, and while
one runs the delivery follows. A word placed with `withFetchWord` is the very next one performed. The turns are the
model's (notes/assumptions 1). -/
def Obligations.StepPerformsTheDecodedInstruction : Prop :=
  (∀ (s : State) (w : Word) (ws : List Word) (ts : List Turn) (i : Instr),
    s.turns = .host :: ts → s.words = w :: ws → decode w = .legal i → step s = exec i { s with turns := ts }) ∧
  (∀ (s : State) (w : Word) (ws : List Word) (ts : List Turn) (i : Instr),
    s.turns = .both :: ts → s.words = w :: ws → decode w = .legal i →
    (s.busy = false → step s = exec i { s with turns := ts }) ∧
    (s.busy = true → ∃ t, exec i { s with turns := ts } = .next t ∧ step s = .next t.sourceTurn)) ∧
  (∀ (s : State) (i : Instr),
    step (s.withFetchWord 16 (encode i).toNat) = exec i { s with words := encode i :: s.words })

/-- R66: the command step, whole. While a batch runs, OVS_RUN and OVS_GET are held: nothing changes and the word stays
offered; any other word, and any word while none runs, is performed. The hold is lifted by the delivery that clears
`BUSY` or by reset, and by nothing else; if the source never delivers, it is never lifted. -/
def Obligations.CommandStepPerformsOrHolds : Prop :=
  (∀ (s : State) (w : Word) (ws : List Word) (ts : List Turn), s.turns = .host :: ts → s.words = w :: ws →
    step s = .next
      (if s.busy = true ∧ isOvsWord w = true then { s with turns := ts }
       else match decode w with
        | .legal .crcClr => { s with turns := ts, words := ws, crc := 0x00#8 }
        | .legal (.crcUpd b) => { s with turns := ts, words := ws, crc := crcByte s.crc b }
        | .legal .crcGet => { s with turns := ts, words := ws, responses := s.responses ++ [s.crc.setWidth 16] }
        | .legal (.ovsRun ch) =>
          { s with
            turns := ts, words := ws, ch := ch.extractLsb' 0 3, sum := 0#14,
            cnt := if ch.toNat < 8 then 0#5 else 16#5, busy := decide (ch.toNat < 8) }
        | .legal .ovsGet =>
          { s with turns := ts, words := ws, responses := s.responses ++ [(s.sum.extractLsb' 2 12).setWidth 16] }
        | .illegal _ => { s with turns := ts, words := ws })) ∧
  (∀ s t : State, step s = .next t → s.busy = true →
    (t.busy = false ↔ s.resetNow = true ∨ (s.presented.isSome = true ∧ s.cnt + 1#5 = 16#5))) ∧
  (∀ (n : Nat) (s : State), s.busy = true → s.samples = [] → (∀ t ∈ s.turns, t.isReset = false) →
    ∃ u, runFor n s = .next u ∧ u.busy = true)

/-- R68: an ILLEGAL word is accepted in every state, changes no register, produces no response and raises nothing: the
step answers a next state that differs only in that the word is gone. -/
def Obligations.IllegalWordIsAcceptedWithoutEffect : Prop :=
  (∀ (s : State) (w : Word) (ws : List Word) (ts : List Turn),
    s.turns = .host :: ts → s.words = w :: ws → isLegal w = false →
    step s = .next { s with turns := ts, words := ws }) ∧
  (∀ (busy : Bool) (w : Word), isLegal w = false → cmdReady false busy w = true)

/-- No step stops: the block raises no exception (R130) and every operation has its meaning. -/
def Obligations.EveryStepAnswersANextState : Prop :=
  (∀ s : State, ∃ t, step s = .next t) ∧ (∀ (i : Instr) (s : State), ∃ t, exec i s = .next t)

/-- Words are taken in the order offered, one at a time (R43, R54), samples likewise, and a step adds at most one
response (R46). A word leaves the port only at an edge at which the host offers it or at which `rst` is asserted. -/
def Obligations.StepTakesAtMostTheOfferedWordAndTheNextSample : Prop :=
  ∀ s t : State, step s = .next t →
    (t.words = s.words ∨ t.words = s.words.tail ∧ (s.offered.isSome = true ∨ s.resetNow = true)) ∧
    (t.samples = s.samples ∨ t.samples = s.samples.tail ∧ s.busy = true ∧ s.presented.isSome = true) ∧
    (t.responses = s.responses ∨ ∃ r, t.responses = s.responses ++ [r]) ∧
    t.turns = s.turns.tail

/-- With no turn to come no agent acts and nothing changes. That this is a step at all is the model's choice
(notes/assumptions 2); R17 says the block never times out. -/
def Obligations.NoAgentActingChangesNothing : Prop :=
  (∀ s : State, s.turns = [] → step s = .next s) ∧
  (∀ (s : State) (ts : List Turn), s.turns = .host :: ts → s.words = [] → step s = .next { s with turns := ts })

/-! ### CRC arithmetic (spec/40_crc8.md R80 to R90, spec/42_composite.md R120) -/

/-- R80: one round, with `shl1_8(r) = {r[6:0], 0}`, and the rule's examples. -/
def Obligations.CrcRoundTestsTheTopBitThenShifts : Prop :=
  (∀ r : Byte, crcRound r =
    if r.getLsbD 7 = true then (r.extractLsb' 0 7 ++ 0#1) ^^^ 0x07#8 else r.extractLsb' 0 7 ++ 0#1) ∧
  [0x00#8, 0x01#8, 0x40#8, 0x7F#8, 0x80#8, 0x81#8, 0xC0#8, 0xFF#8].map crcRound =
    [0x00#8, 0x02#8, 0x80#8, 0xFE#8, 0x07#8, 0x05#8, 0x87#8, 0xF9#8]

/-- R81: the byte is XORed in, then exactly eight rounds follow; the rule's four worked traces. -/
def Obligations.CrcByteIsXorThenEightRounds : Prop :=
  (∀ r b : Byte,
    let t0 := r ^^^ b
    let t1 := crcRound t0
    let t2 := crcRound t1
    let t3 := crcRound t2
    let t4 := crcRound t3
    let t5 := crcRound t4
    let t6 := crcRound t5
    let t7 := crcRound t6
    let t8 := crcRound t7
    crcByte r b = t8) ∧
  (List.range 9).map (fun n => crcRounds n (0x00#8 ^^^ 0x20#8)) =
    [0x20#8, 0x40#8, 0x80#8, 0x07#8, 0x0E#8, 0x1C#8, 0x38#8, 0x70#8, 0xE0#8] ∧
  (List.range 9).map (fun n => crcRounds n (0xE0#8 ^^^ 0x04#8)) =
    [0xE4#8, 0xCF#8, 0x99#8, 0x35#8, 0x6A#8, 0xD4#8, 0xAF#8, 0x59#8, 0xB2#8] ∧
  (List.range 9).map (fun n => crcRounds n (0x00#8 ^^^ 0x01#8)) =
    [0x01#8, 0x02#8, 0x04#8, 0x08#8, 0x10#8, 0x20#8, 0x40#8, 0x80#8, 0x07#8] ∧
  (List.range 9).map (fun n => crcRounds n (0x00#8 ^^^ 0xFF#8)) =
    [0xFF#8, 0xF9#8, 0xF5#8, 0xED#8, 0xDD#8, 0xBD#8, 0x7D#8, 0xFA#8, 0xF3#8]

/-- R82, which the spec marks derived: the table (a) and the eight bit equations (b). -/
def Obligations.CrcByteAgreesWithTableAndBitEquations : Prop :=
  (∀ r b : Byte, crcTable[(r ^^^ b).toNat]? = some (crcByte r b)) ∧ crcTable.length = 256 ∧
  (∀ r b : Byte,
    let c := r ^^^ b
    let n := crcByte r b
    n.getLsbD 0 = (c.getLsbD 0 ^^ c.getLsbD 6 ^^ c.getLsbD 7) ∧
    n.getLsbD 1 = (c.getLsbD 0 ^^ c.getLsbD 1 ^^ c.getLsbD 6) ∧
    n.getLsbD 2 = (c.getLsbD 0 ^^ c.getLsbD 1 ^^ c.getLsbD 2 ^^ c.getLsbD 6) ∧
    n.getLsbD 3 = (c.getLsbD 1 ^^ c.getLsbD 2 ^^ c.getLsbD 3 ^^ c.getLsbD 7) ∧
    n.getLsbD 4 = (c.getLsbD 2 ^^ c.getLsbD 3 ^^ c.getLsbD 4) ∧
    n.getLsbD 5 = (c.getLsbD 3 ^^ c.getLsbD 4 ^^ c.getLsbD 5) ∧
    n.getLsbD 6 = (c.getLsbD 4 ^^ c.getLsbD 5 ^^ c.getLsbD 6) ∧
    n.getLsbD 7 = (c.getLsbD 5 ^^ c.getLsbD 6 ^^ c.getLsbD 7))

/-- R87, which the spec marks derived: linearity over XOR, of a round, of a byte, and of the CRC of two messages of
equal length. -/
def Obligations.CrcIsLinearOverXor : Prop :=
  (∀ x y : Byte, crcRound (x ^^^ y) = crcRound x ^^^ crcRound y) ∧ crcRound 0x00#8 = 0x00#8 ∧
  (∀ r r' b b' : Byte, crcByte (r ^^^ r') (b ^^^ b') = crcByte r b ^^^ crcByte r' b') ∧
  (∀ r b : Byte, crcByte r b = crcByte (r ^^^ b) 0x00#8 ∧ crcByte r b = crcByte 0x00#8 (r ^^^ b)) ∧
  crcByte 0x00#8 0x00#8 = 0x00#8 ∧
  (∀ m m' : List Byte, m.length = m'.length → crc8 (List.zipWith (· ^^^ ·) m m') = crc8 m ^^^ crc8 m')

/-- R88, which the spec marks derived: a round is a permutation with the inverse the rule gives, so is absorbing a byte
in either argument, and two messages that differ in exactly one byte never have the same CRC. -/
def Obligations.CrcRoundAndByteArePermutations : Prop :=
  (let inv (y : Byte) : Byte :=
      if y.getLsbD 0 = true then 1#1 ++ (y ^^^ 0x07#8).extractLsb' 1 7 else 0#1 ++ y.extractLsb' 1 7
   ∀ x : Byte, inv (crcRound x) = x ∧ crcRound (inv x) = x) ∧
  Function.Bijective crcRound ∧
  (∀ r : Byte, Function.Bijective (fun b => crcByte r b)) ∧
  (∀ b : Byte, Function.Bijective (fun r => crcByte r b)) ∧
  (∀ (p q : List Byte) (b b' : Byte), b ≠ b' → crc8 (p ++ b :: q) ≠ crc8 (p ++ b' :: q))

/-- R89, which the spec marks derived: absorbing a message's own checksum leaves zero. -/
def Obligations.AbsorbingItsOwnChecksumGivesZero : Prop :=
  ∀ m : List Byte, crc8 (m ++ [crc8 m]) = 0x00#8

/-- R90, which the spec marks derived: zero bytes at the start of a message are invisible. -/
def Obligations.LeadingZeroBytesAreInvisible : Prop :=
  ∀ (n : Nat) (m : List Byte), crc8 (List.replicate n 0x00#8 ++ m) = crc8 m

/-- R120: `crc8` is the fold of `crc_byte` over the bytes from `0x00`, first byte first. -/
def Obligations.CrcOfAMessageIsTheFoldOfItsBytes : Prop :=
  crc8 [] = 0x00#8 ∧ (∀ (m : List Byte) (b : Byte), crc8 (m ++ [b]) = crcByte (crc8 m) b) ∧
  (∀ m : List Byte, crc8 m = List.foldl crcByte 0x00#8 m)

/-! ### The CRC operations (spec/40_crc8.md R83 to R85) -/

/-- R83: CRC_CLR, in every state. Nothing but `CRC` and the offered word changes. -/
def Obligations.CrcClrClearsTheCrcRegister : Prop :=
  encode .crcClr = 0x1000#16 ∧
  (∀ s : State, exec .crcClr s = .next { s with crc := 0x00#8, words := s.words.tail }) ∧
  (∀ s t : State, exec .crcClr s = .next t → (s.crc = 0x00#8 → t.regs = s.regs) ∧
    ∃ u, exec .crcClr t = .next u ∧ u.regs = t.regs) ∧
  (∀ busy : Bool, cmdReady false busy 0x1000#16 = true)

/-- R84: CRC_UPD b, in every state and for every byte. Nothing but `CRC` and the offered word changes. -/
def Obligations.CrcUpdAbsorbsOneByte : Prop :=
  (∀ b : Byte, encode (.crcUpd b) = 0x2000#16 ||| b.setWidth 16) ∧
  (∀ (b : Byte) (s : State),
    exec (.crcUpd b) s = .next { s with crc := crcByte s.crc b, words := s.words.tail }) ∧
  (∀ (b : Byte) (busy : Bool), cmdReady false busy (encode (.crcUpd b)) = true) ∧
  crcByte 0x80#8 0x00#8 = 0x89#8 ∧ crcByte 0x00#8 0x00#8 = 0x00#8 ∧ (∀ r : Byte, crcByte r r = 0x00#8) ∧
  crcByte 0xE0#8 0x04#8 = 0xB2#8

/-- R85: CRC_GET, in every state. It responds with the register unreflected and unmasked, and writes nothing; a second
one responds the same; after CRC_CLR it responds `0x0000`. -/
def Obligations.CrcGetRespondsWithTheRegister : Prop :=
  encode .crcGet = 0x3000#16 ∧
  (∀ s : State, exec .crcGet s =
    .next { s with words := s.words.tail, responses := s.responses ++ [0x00#8 ++ s.crc] }) ∧
  (∀ s t : State, exec .crcGet s = .next t →
    ∃ u, exec .crcGet t = .next u ∧ u.responses = s.responses ++ [0x00#8 ++ s.crc, 0x00#8 ++ s.crc]) ∧
  (∀ s t : State, exec .crcClr s = .next t →
    ∃ u, exec .crcGet t = .next u ∧ u.responses = s.responses ++ [0x0000#16]) ∧
  (∃ u, exec .crcGet State.reset = .next u ∧ u.responses = [0x0000#16]) ∧
  (∀ busy : Bool, cmdReady false busy 0x3000#16 = true)

/-! ### The OVS operations (spec/41_oversampling.md R100 to R104, R111) -/

/-- R100: the sample gate compares the channel unsigned on all eight bits. The second clause, that for an invalid channel
the source is not asked (`s_req` stays 0), is the sentence the spec marks as its own inference: "That the source is not
asked at all for an invalid channel is [derived: ...]"; R111 gives its hardware form. -/
def Obligations.SampleGatePassesOnlyValidChannels : Prop :=
  (∀ (ch : Byte) (v : Sample), sampleGate ch v = if ch.toNat < 8 then v else 0#10) ∧
  (∀ (ch : Byte) (s t : State) (p : PinsIn), s.busy = false → 8 ≤ ch.toNat → exec (.ovsRun ch) s = .next t →
    (pinOut t.regs p).sReq = false)

/-- R102: OVS_RUN ch. Accepted only while no batch runs; a valid channel starts a batch, an invalid one completes at
once; the old sum is discarded; nothing else changes. While a batch runs the word is held. -/
def Obligations.OvsRunStartsABatchOrIsHeld : Prop :=
  (∀ ch : Byte, encode (.ovsRun ch) = 0x8000#16 ||| ch.setWidth 16) ∧
  (∀ (ch : Byte) (s : State), s.busy = false → ch.toNat < 8 →
    exec (.ovsRun ch) s = .next
      { s with ch := ch.extractLsb' 0 3, sum := 0#14, cnt := 0#5, busy := true, words := s.words.tail }) ∧
  (∀ (ch : Byte) (s : State), s.busy = false → 8 ≤ ch.toNat →
    exec (.ovsRun ch) s = .next
      { s with ch := ch.extractLsb' 0 3, sum := 0#14, cnt := 16#5, busy := false, words := s.words.tail }) ∧
  (∀ (ch : Byte) (s : State), s.busy = true → exec (.ovsRun ch) s = .next s) ∧
  (∀ (ch : Byte) (s t : State), s.busy = false → 8 ≤ ch.toNat → exec (.ovsRun ch) s = .next t →
    ∃ u, exec .ovsGet t = .next u ∧ u.responses = s.responses ++ [0x0000#16]) ∧
  (∀ s : State, s.busy = false →
    (∃ t, exec (.ovsRun 7#8) s = .next t ∧ t.busy = true ∧ t.ch = 7#3) ∧
    (∃ t, exec (.ovsRun 8#8) s = .next t ∧ t.busy = false ∧ t.ch = 0#3) ∧
    (∃ t, exec (.ovsRun 0xFF#8) s = .next t ∧ t.busy = false ∧ t.ch = 7#3)) ∧
  (∃ t, exec (.ovsRun 3#8) State.reset = .next t ∧ t.ch = 3#3 ∧ t.sum = 0#14 ∧ t.cnt = 0#5 ∧ t.busy = true ∧
    ∀ p : PinsIn, (pinOut t.regs p).sReq = true ∧ (pinOut t.regs p).sCh = 3#3)

/-- R103: OVS_GET. Accepted only while no batch runs; it responds `zext_16(SUM[13:2])` and writes nothing, so a second
one responds the same; while a batch runs the word is held. The largest response in a state that meets R31 is `0x0FFC`. -/
def Obligations.OvsGetRespondsWithTheShiftedSumOrIsHeld : Prop :=
  encode .ovsGet = 0x9000#16 ∧
  (∀ s : State, s.busy = false → exec .ovsGet s =
    .next { s with words := s.words.tail, responses := s.responses ++ [0#4 ++ s.sum.extractLsb' 2 12] }) ∧
  (∀ s : State, s.busy = true → exec .ovsGet s = .next s) ∧
  (∀ s t : State, s.busy = false → exec .ovsGet s = .next t → ∃ u, exec .ovsGet t = .next u ∧
    u.responses = s.responses ++ [ovsResponse s.sum, ovsResponse s.sum]) ∧
  (∃ u, exec .ovsGet State.reset = .next u ∧ u.responses = [0x0000#16]) ∧
  (∀ s : State, Inv s → (ovsResponse s.sum).toNat ≤ 0x0FFC) ∧
  ovsResponse 0x0000#14 = 0x0000#16 ∧ ovsResponse 0x048C#14 = 0x0123#16

/-- R104: one sample delivery. Enabled only while a batch runs: the sum and the count advance, the sixteenth clears
`BUSY` in the same step, `CH` and `CRC` and everything else are untouched; while no batch runs nothing the source
presents is taken. -/
def Obligations.SampleIsAddedOnlyWhileABatchRuns : Prop :=
  (∀ (s : State) (v : Sample) (vs : List Sample) (ts : List Turn),
    s.turns = .source :: ts → s.samples = v :: vs → s.busy = true →
    step s = .next
      { s with
        turns := ts, samples := vs, sum := s.sum + v.setWidth 14, cnt := s.cnt + 1#5,
        busy := decide (s.cnt + 1#5 ≠ 16#5) }) ∧
  (∀ (s : State) (ts : List Turn), s.turns = .source :: ts → s.busy = false →
    step s = .next { s with turns := ts }) ∧
  (∀ s : State, s.sum = 0x3BF1#14 → s.cnt = 15#5 → s.busy = true →
    (s.addSample 0x3FF#10).sum = 0x3FF0#14 ∧ (s.addSample 0x3FF#10).cnt = 16#5 ∧
      (s.addSample 0x3FF#10).busy = false) ∧
  (∀ s : State, s.sum = 0x0005#14 → s.cnt = 2#5 → s.busy = true →
    (s.addSample 0x003#10).sum = 0x0008#14 ∧ (s.addSample 0x003#10).cnt = 3#5 ∧ (s.addSample 0x003#10).busy = true)

/-- R111: an invalid channel completes in its own step, the source is not asked and delivers nothing, and the end state
is exactly that of a batch on the channel `CH` names that took sixteen zero samples; so nothing records that the
channel was invalid. -/
def Obligations.InvalidChannelEndsAsSixteenZeroSamplesWould : Prop :=
  ∀ (ch : Byte) (s : State), s.busy = false → 8 ≤ ch.toNat →
    ∃ t, exec (.ovsRun ch) s = .next t ∧ t.busy = false ∧ t.sum = 0#14 ∧ t.cnt = 16#5 ∧ t.samples = s.samples ∧
      (∀ p : PinsIn, (pinOut t.regs p).sReq = false) ∧
      (∀ v : Sample, sampleGate ch v = 0#10) ∧
      ∃ t', exec (.ovsRun ((channelLatch ch).setWidth 8)) s = .next t' ∧
        t = (List.replicate 16 0#10).foldl (fun u v => u.addSample v) t'

/-! ### OVS arithmetic (spec/41_oversampling.md R101, R106 to R109; spec/42_composite.md R122) -/

/-- R106, with R101's sum: the result of sixteen samples is the floor of a quarter of their sum; the shift truncates. -/
def Obligations.ResultIsTheFlooredQuarterOfTheSum : Prop :=
  (∀ sum : SumWord, (resultOf sum).toNat = sum.toNat / 4) ∧ resultOf 3#14 = 0#12 ∧ resultOf 7#14 = 1#12 ∧
  (∀ vs : List Sample, vs.length = 16 → (ovsSum vs).toNat = (vs.map BitVec.toNat).sum ∧
    (ovsRes vs).toNat = (vs.map BitVec.toNat).sum / 4)

/-- R107, which the spec marks derived: in a state that meets R31 and runs a batch, adding a sample never wraps. -/
def Obligations.AddingASampleNeverWraps : Prop :=
  ∀ (s : State) (v : Sample), Inv s → s.busy = true →
    (s.addSample v).sum.toNat = s.sum.toNat + v.toNat ∧ (s.addSample v).sum.toNat ≤ 16368

/-- R108, whose last part the spec marks derived: the result of a batch is at most 4092, is 4092 only when all sixteen
samples are 1023, and takes every value up to it. -/
def Obligations.ResultRangesFromZeroTo4092 : Prop :=
  (∀ vs : List Sample, vs.length = 16 → (ovsRes vs).toNat ≤ 4092 ∧
    ((ovsRes vs).toNat = 4092 ↔ ∀ v ∈ vs, v = 1023#10)) ∧
  (∀ r : Nat, r ≤ 4092 → ∃ vs : List Sample, vs.length = 16 ∧ (ovsRes vs).toNat = r)

/-- R109, which the spec marks derived: (a) sixteen equal samples, (b) the result against the exact mean, (c)
monotonicity, (d) only the sum of the samples matters, hence not their order. -/
def Obligations.OversamplingIdentities : Prop :=
  (∀ v : Sample, (ovsRes (List.replicate 16 v)).toNat = 4 * v.toNat) ∧
  (∀ vs : List Sample, vs.length = 16 →
    let mean : ℚ := ((vs.map BitVec.toNat).sum : ℚ) / 16
    ((ovsRes vs).toNat : ℤ) = ⌊4 * mean⌋ ∧ |((ovsRes vs).toNat : ℚ) / 4 - mean| < 1 / 4) ∧
  (∀ (p q : List Sample) (v v' : Sample), (p ++ v :: q).length = 16 → v.toNat ≤ v'.toNat →
    (ovsRes (p ++ v :: q)).toNat ≤ (ovsRes (p ++ v' :: q)).toNat) ∧
  (∀ vs vs' : List Sample, vs.length = 16 → vs'.length = 16 →
    (vs.map BitVec.toNat).sum = (vs'.map BitVec.toNat).sum → ovsRes vs = ovsRes vs') ∧
  (∀ vs vs' : List Sample, vs.Perm vs' → ovsRes vs = ovsRes vs')

/-- R122: `readOversampled` for a valid channel and for an invalid one. -/
def Obligations.ReadOversampledIsTheFlooredQuarterOrZero : Prop :=
  ∀ (ch : Byte) (vs : List Sample), vs.length = 16 →
    readOversampled ch vs = ovsRes (vs.map (sampleGate ch)) ∧
    (readOversampled ch vs).toNat = if ch.toNat < 8 then (vs.map BitVec.toNat).sum / 4 else 0

/-! ### Reset (spec/10_state.md R32, spec/70_reset_and_hazards.md R150, R151) -/

/-- R32: the reset value of every register. That nothing is offered, presented or in flight is R18's launch state. -/
def Obligations.ResetStateHoldsTheSpecsValues : Prop :=
  State.reset.crc = 0x00#8 ∧ State.reset.sum = 0#14 ∧ State.reset.cnt = 0#5 ∧ State.reset.ch = 0#3 ∧
  State.reset.busy = false

/-- R150: at an edge with `rst` asserted every register takes its reset value, whoever else acts; no command is accepted
(`cmd_ready` is 0), no sample is delivered and no response is produced; afterwards `s_req` is 0 and any command is
accepted; a second edge repeats the step. Whether the host goes on offering its word is its own affair (R43, R151). -/
def Obligations.ResetPutsEveryRegisterAtItsResetValue : Prop :=
  (∀ (s : State) (keeps : Bool) (ts : List Turn), s.turns = .reset keeps :: ts →
    ∃ t, step s = .next t ∧ t.crc = 0x00#8 ∧ t.sum = 0#14 ∧ t.cnt = 0#5 ∧ t.ch = 0#3 ∧ t.busy = false ∧
      t.samples = s.samples ∧ t.responses = s.responses ∧ t.turns = ts ∧
      t.words = (if keeps = true then s.words else s.words.tail) ∧
      (∀ p : PinsIn, (pinOut t.regs p).sReq = false) ∧ (∀ w : Word, cmdReady false t.busy w = true)) ∧
  (∀ (busy : Bool) (w : Word), cmdReady true busy w = false) ∧
  (∀ (r : Regs) (p : PinsIn), p.rst = true →
    pinEdge r p = { crc := 0x00#8, sum := 0#14, cnt := 0#5, ch := 0#3, busy := false } ∧
    (pinOut r p).rspValid = false ∧ pinDelivered r p = false ∧ pinEdge (pinEdge r p) p = pinEdge r p)

/-- R151: reset abandons a batch; a word held at that edge is not accepted and, if still offered, is a new offer against
the reset state: an OVS_GET then responds `0x0000` and an OVS_RUN starts a new batch. The partial sum and the partial
CRC are lost. Reset is the only way to leave RUNNING without the sixteenth sample. -/
def Obligations.ResetAbandonsTheBatchAndTheHold : Prop :=
  (∀ (s : State) (ws : List Word) (ts : List Turn), s.busy = true → s.words = encode .ovsGet :: ws →
    s.turns = .host :: .reset true :: .host :: ts →
    ∃ t u, runFor 2 s = .next t ∧ t.words = s.words ∧ t.busy = false ∧ t.sum = 0#14 ∧ t.crc = 0x00#8 ∧
      t.responses = s.responses ∧ runFor 3 s = .next u ∧ u.words = ws ∧ u.responses = s.responses ++ [0x0000#16]) ∧
  (∀ (s : State) (ch : Byte) (ws : List Word) (ts : List Turn), s.busy = true → ch.toNat < 8 →
    s.words = encode (.ovsRun ch) :: ws → s.turns = .host :: .reset true :: .host :: ts →
    ∃ t u, runFor 2 s = .next t ∧ t.words = s.words ∧ t.busy = false ∧
      runFor 3 s = .next u ∧ u.words = ws ∧ u.busy = true ∧ u.cnt = 0#5 ∧ u.ch = channelLatch ch) ∧
  (∀ s t : State, Inv s → step s = .next t → s.busy = true → t.busy = false →
    s.resetNow = true ∨ (s.presented.isSome = true ∧ s.cnt = 15#5 ∧ t.cnt = 16#5))

/-! ### The whole machine -/

/-- R31: the invariants hold in the reset state, whatever the agents are about to do. -/
def Obligations.InvariantsHoldAtReset : Prop :=
  Inv State.reset ∧ ∀ (ws : List Word) (vs : List Sample) (ts : List Turn), Inv (State.launch ws vs ts)

/-- R31, which the spec marks derived: every step keeps the invariants, whoever acts. -/
def Obligations.EveryStepKeepsTheInvariants : Prop :=
  ∀ s t : State, Inv s → step s = .next t → Inv t

/-- R105: the OVS unit's two-state machine. In every state the registers of the unit after a step are exactly these:
reset, an accepted OVS_RUN, a delivery, and nothing else moves them. -/
def Obligations.OvsUnitMovesAsItsStateMachine : Prop :=
  (∀ s t : State, step s = .next t →
    (t.sum, t.cnt, t.ch, t.busy) =
      if s.resetNow = true then (0#14, 0#5, 0#3, false)
      else if s.busy = true then
        match s.presented with
        | none => (s.sum, s.cnt, s.ch, true)
        | some v => (s.sum + v.setWidth 14, s.cnt + 1#5, s.ch, decide (s.cnt ≠ 15#5))
      else
        match s.offered.bind instrOf with
        | some (.ovsRun ch) =>
          (0#14, if ch.toNat < 8 then 0#5 else 16#5, ch.extractLsb' 0 3, decide (ch.toNat < 8))
        | _ => (s.sum, s.cnt, s.ch, false)) ∧
  (∀ s : State, Inv s →
    (s.busy = true → s.cnt.toNat ≤ 15) ∧ (s.busy = false → s.cnt = 0#5 ∨ s.cnt = 16#5))

/-- R26, R110: while a batch runs `CH` does not change, so all sixteen samples are requested from one channel, and
`s_req` stays 1 until the sixteenth delivery or reset. -/
def Obligations.ChannelIsConstantWhileABatchRuns : Prop :=
  ∀ s t : State, Inv s → step s = .next t → s.busy = true → s.resetNow = false →
    t.ch = s.ch ∧ (∀ p : PinsIn, (pinOut t.regs p).sCh = (pinOut s.regs p).sCh) ∧
    (t.busy = true ∨ (s.cnt = 15#5 ∧ t.cnt = 16#5))

/-- R20: the two units share no register. What the OVS unit does depends on nothing in `CRC` and never writes it; what
the CRC unit does depends on nothing but `CRC` and the words offered. Two runs that differ only in one unit's registers
show it. -/
def Obligations.UnitsDoNotInterfere : Prop :=
  (∀ (s : State) (c : Byte) (rs : List Word) (t u : State), step s = .next t →
    step { s with crc := c, responses := rs } = .next u →
    (u.sum, u.cnt, u.ch, u.busy, u.words, u.samples, u.turns) =
      (t.sum, t.cnt, t.ch, t.busy, t.words, t.samples, t.turns)) ∧
  (∀ s s' t t' : State, s.crc = s'.crc → s.words = s'.words → s.turns = s'.turns → step s = .next t →
    step s' = .next t' → t.crc = t'.crc) ∧
  (∀ (i : Instr) (s t : State), exec i s = .next t →
    if i.isOvs then t.crc = s.crc else (t.sum, t.cnt, t.ch, t.busy) = (s.sum, s.cnt, s.ch, s.busy)) ∧
  (∀ s : State, s.sourceTurn.crc = s.crc)

/-- R153: with `rst = 0`, a word accepted and a sample delivered at one edge both take effect, and the state and the
responses are those of performing the two in either order. -/
def Obligations.AcceptanceAndDeliveryCommute : Prop :=
  ∀ (s : State) (w : Word) (ws : List Word) (v : Sample) (vs : List Sample) (ts : List Turn),
    s.busy = true → s.words = w :: ws → s.samples = v :: vs → cmdReady false s.busy w = true →
    ∃ u, step { s with turns := .both :: ts } = .next u ∧
      runFor 2 { s with turns := .host :: .source :: ts } = .next u ∧
      runFor 2 { s with turns := .source :: .host :: ts } = .next u ∧ u.words = ws ∧ u.samples = vs

/-- R134: events at one clock edge. (a) `rst` wins; (b) is R153; (c) an OVS word is held at the edge of a delivery, also
of the sixteenth; (d) an OVS_RUN with an invalid channel is held first while a batch runs. -/
def Obligations.SimultaneousEventsResolveAsStated : Prop :=
  (∀ (r : Regs) (p : PinsIn), p.rst = true →
    pinAccepted r p = false ∧ pinDelivered r p = false ∧ pinRspValid r p = false ∧ pinEdge r p = State.reset.regs) ∧
  (∀ (r : Regs) (p : PinsIn), p.rst = false → pinAccepted r p = true → pinDelivered r p = true →
    pinEdge r p = pinEdge (pinEdge r { p with sValid := false }) { p with cmdValid := false } ∧
    pinEdge r p = pinEdge (pinEdge r { p with cmdValid := false }) { p with sValid := false }) ∧
  (∀ (s : State) (w : Word) (ws : List Word) (v : Sample) (vs : List Sample) (ts : List Turn),
    s.busy = true → s.turns = .both :: ts → s.words = w :: ws → isOvsWord w = true → s.samples = v :: vs →
    step s = .next (({ s with turns := ts, samples := vs } : State).addSample v)) ∧
  (∀ (s : State) (ch : Byte), s.busy = true → 8 ≤ ch.toNat → exec (.ovsRun ch) s = .next s)

/-! ### The pins (spec/20_memory.md R42 to R46) -/

/-- R44: `cmd_ready`. -/
def Obligations.CmdReadyFollowsItsRule : Prop :=
  (∀ (rst busy : Bool) (w : Word), cmdReady rst busy w = true ↔
    rst = false ∧ ¬(busy = true ∧ (instrOf w = some .ovsGet ∨ ∃ ch, instrOf w = some (.ovsRun ch)))) ∧
  (∀ (busy : Bool) (w : Word), instrOf w = some .crcClr ∨ (∃ b, instrOf w = some (.crcUpd b)) ∨
    instrOf w = some .crcGet ∨ instrOf w = none → cmdReady false busy w = true)

/-- R43: a word is accepted at an edge with `rst = 0`, `cmd_valid = 1` and `cmd_ready = 1`, and held at one with
`cmd_ready = 0`; a held word makes no difference to the edge and is given no response. A stimulus in which the host
changes or withdraws it is refused (93_implementation_defined.md U6); in one that is not, it is held again or accepted at
the next edge without reset, and it is accepted once `BUSY = 0`. -/
def Obligations.HeldWordStaysOnThePortUntilItIsAccepted : Prop :=
  (∀ (r : Regs) (p : PinsIn),
    (pinAccepted r p = true ↔ p.rst = false ∧ p.cmdValid = true ∧ (pinOut r p).cmdReady = true) ∧
    (pinHeld r p = true ↔ p.rst = false ∧ p.cmdValid = true ∧ (pinOut r p).cmdReady = false)) ∧
  (∀ (r : Regs) (p : PinsIn), pinHeld r p = true →
    pinEdge r p = pinEdge r { p with cmdValid := false } ∧ (pinOut r p).rspValid = false) ∧
  (∀ (r : Regs) (p p' : PinsIn) (ps : List PinsIn), pinHeld r p = true → p'.rst = false →
    (p'.cmdValid = false ∨ p'.cmd ≠ p.cmd → pinEdges r (p :: p' :: ps) = none) ∧
    (pinEdges r (p :: p' :: ps) ≠ none → p'.cmd = p.cmd ∧
      (pinAccepted (pinEdge r p) p' = true ↔ (pinEdge r p).busy = false) ∧
      (pinHeld (pinEdge r p) p' = true ↔ (pinEdge r p).busy = true)))

/-- R45: `s_req = BUSY`, `s_ch = CH`; a delivery needs `rst = 0`, `s_req = 1`, `s_valid = 1`; with `s_req = 0` the
source's pins are ignored; `s_ch` is constant over a batch, and the block waits for `s_valid` without limit. -/
def Obligations.SamplePortFollowsItsRule : Prop :=
  (∀ (r : Regs) (p : PinsIn), (pinOut r p).sReq = r.busy ∧ (pinOut r p).sCh = r.ch) ∧
  (∀ (r : Regs) (p : PinsIn),
    pinDelivered r p = true ↔ p.rst = false ∧ (pinOut r p).sReq = true ∧ p.sValid = true) ∧
  (∀ (r : Regs) (p : PinsIn) (v : Bool) (d : Sample), r.busy = false →
    pinEdge r { p with sValid := v, sData := d } = pinEdge r p) ∧
  (∀ (r : Regs) (p : PinsIn), r.busy = true → p.rst = false → (pinEdge r p).ch = r.ch) ∧
  (∀ (ps : List PinsIn) (r : Regs), r.busy = true → (∀ p ∈ ps, p.rst = false ∧ p.sValid = false) →
    (ps.foldl pinEdge r).busy = true)

/-- R46: the response port. A response word is on `rsp` exactly in a cycle in which CRC_GET or OVS_GET is accepted, as
a function of the state before the edge; in every other cycle `rsp_valid` is 0 and `rsp` is `0x0000`. -/
def Obligations.ResponsePortFollowsItsRule : Prop :=
  ∀ (r : Regs) (p : PinsIn),
    (instrOf p.cmd = some .crcGet → pinAccepted r p = true →
      (pinOut r p).rspValid = true ∧ (pinOut r p).rsp = crcResponse r.crc) ∧
    (instrOf p.cmd = some .ovsGet → pinAccepted r p = true →
      (pinOut r p).rspValid = true ∧ (pinOut r p).rsp = ovsResponse r.sum) ∧
    (pinAccepted r p = false ∨ (instrOf p.cmd ≠ some .crcGet ∧ instrOf p.cmd ≠ some .ovsGet) →
      (pinOut r p).rspValid = false ∧ (pinOut r p).rsp = 0x0000#16)

/-- The pins realise the steps (R42: the pin list is the transaction-level model's one intended realisation): at every
edge, whoever acts, the registers' next values, the word taken, the sample taken and the response are the same in the
step relation and at the pins. -/
def Obligations.PinsRealiseTheStepRelation : Prop :=
  ∀ (s : State) (t : Turn) (ts : List Turn), s.turns = t :: ts →
    ∃ u, step s = .next u ∧ u.turns = ts ∧
      u.regs = pinEdge s.regs (s.pins t) ∧
      u.responses = s.responses ++
        (if (pinOut s.regs (s.pins t)).rspValid = true then [(pinOut s.regs (s.pins t)).rsp] else []) ∧
      u.words = (if pinAccepted s.regs (s.pins t) = true ∨ t = .reset false then s.words.tail else s.words) ∧
      u.samples = (if pinDelivered s.regs (s.pins t) = true then s.samples.tail else s.samples)

/-! ### Sequences of operations (spec/42_composite.md R121, R123; spec/41_oversampling.md R112; spec/70 R154) -/

/-- R121, which the spec marks derived: the words of `CRC8 b0, ..., bn-1`, from any state and with any deliveries
interleaved, are all accepted without a hold, respond `zext_16(crc8)` and leave `CRC = crc8`. The turns are any list
without a reset in which the host acts `n + 2` times, once for each word. -/
def Obligations.Crc8SequenceRespondsWithTheChecksum : Prop :=
  ∀ (s : State) (m : List Byte) (ws : List Word) (ts : List Turn) (rest : List Turn),
    s.words = crc8Words m ++ ws → s.turns = ts ++ rest → (∀ t ∈ ts, t.isReset = false) →
    ts.countP Turn.hostActs = m.length + 2 →
    ∃ u, runFor ts.length s = .next u ∧ u.words = ws ∧ u.turns = rest ∧ u.crc = crc8 m ∧
      u.responses = s.responses ++ [(crc8 m).setWidth 16]

/-- R154: without CRC_CLR the CRC unit continues from the old value: the result is `fold(crc_byte, old CRC, m)`. -/
def Obligations.WithoutClearTheChecksumContinues : Prop :=
  ∀ (s : State) (m : List Byte) (ws : List Word) (ts : List Turn) (rest : List Turn),
    s.words = (m.map Instr.crcUpd ++ [Instr.crcGet]).map encode ++ ws → s.turns = ts ++ rest →
    (∀ t ∈ ts, t.isReset = false) → ts.countP Turn.hostActs = m.length + 1 →
    ∃ u, runFor ts.length s = .next u ∧ u.words = ws ∧ u.crc = List.foldl crcByte s.crc m ∧
      u.responses = s.responses ++ [(List.foldl crcByte s.crc m).setWidth 16]

/-- R123, which the spec marks derived: `READ_OVS ch` on a valid channel, accepted while no batch runs. Whatever the
interleaving of the sixteen deliveries with the host's (held) offers of OVS_GET, it responds
`zext_16(readOversampled(ch))`, and the registers end as the rule says. The turns between are any list without a reset
that ends with the sixteenth presentation. -/
def Obligations.ReadOvsSequenceRespondsWithTheReading : Prop :=
  ∀ (s : State) (ch : Byte) (ws : List Word) (vs more : List Sample) (mid : List Turn) (last : Turn)
    (rest : List Turn),
    s.busy = false → ch.toNat < 8 → s.words = readOvsWords ch ++ ws → s.samples = vs ++ more → vs.length = 16 →
    s.turns = .host :: mid ++ last :: .host :: rest → (∀ t ∈ mid, t.isReset = false) →
    mid.countP Turn.sourceActs = 15 → last.sourceActs = true →
    ∃ u, runFor (mid.length + 3) s = .next u ∧ u.words = ws ∧ u.samples = more ∧ u.turns = rest ∧
      u.responses = s.responses ++ [(readOversampled ch vs).setWidth 16] ∧
      u.sum.toNat = (vs.map BitVec.toNat).sum ∧ u.cnt = 16#5 ∧ u.busy = false ∧ u.ch = ch.extractLsb' 0 3 ∧
      u.crc = s.crc

/-- R123, widened by R55, R56 and R66: the same reading when the host's OVS_RUN may first be held by an earlier batch, and
when it offers other words (CRC operations and illegal words) between OVS_RUN and OVS_GET. The reading is of the sixteen
samples after the earlier batch's, and the words between change `CRC` and respond exactly as they do on their own. The
turns `pre` end with the delivery that completes the earlier batch, and are none if no batch runs; in `mid` the host
acts at least once for each word between, and the source presents fifteen samples. The lists are the model's
(notes/assumptions 1). -/
def Obligations.ReadOvsIsUnmovedByAnEarlierBatchAndByCrcWords : Prop :=
  ∀ (s : State) (ch : Byte) (cs ws : List Word) (old vs more : List Sample) (pre mid : List Turn) (last : Turn)
    (rest : List Turn),
    Inv s → ch.toNat < 8 → (∀ w ∈ cs, isOvsWord w = false) →
    s.words = encode (.ovsRun ch) :: cs ++ encode .ovsGet :: ws → s.samples = old ++ vs ++ more →
    old.length = (if s.busy = true then 16 - s.cnt.toNat else 0) → vs.length = 16 →
    s.turns = pre ++ .host :: mid ++ last :: .host :: rest → (∀ t ∈ pre ++ mid, t.isReset = false) →
    pre.countP Turn.sourceActs = old.length → (∀ t ∈ pre.getLast?, t.sourceActs = true) →
    mid.countP Turn.sourceActs = 15 → cs.length ≤ mid.countP Turn.hostActs → last.sourceActs = true →
    ∃ t u, runFor cs.length { s with words := cs, turns := List.replicate cs.length .host } = .next t ∧
      runFor (pre.length + mid.length + 3) s = .next u ∧ u.words = ws ∧ u.samples = more ∧ u.turns = rest ∧
      u.crc = t.crc ∧ u.responses = t.responses ++ [(readOversampled ch vs).setWidth 16] ∧
      u.sum.toNat = (vs.map BitVec.toNat).sum ∧ u.cnt = 16#5 ∧ u.busy = false ∧ u.ch = ch.extractLsb' 0 3

/-- R123 on an invalid channel: `READ_OVS ch` takes no sample and responds `0x0000`. -/
def Obligations.ReadOvsOnAnInvalidChannelRespondsZero : Prop :=
  ∀ (s : State) (ch : Byte) (ws : List Word) (rest : List Turn),
    s.busy = false → 8 ≤ ch.toNat → s.words = readOvsWords ch ++ ws → s.turns = .host :: .host :: rest →
    ∃ u, runFor 2 s = .next u ∧ u.words = ws ∧ u.samples = s.samples ∧ u.responses = s.responses ++ [0x0000#16] ∧
      u.sum = 0#14 ∧ u.cnt = 16#5 ∧ u.busy = false ∧ u.ch = ch.extractLsb' 0 3 ∧ u.crc = s.crc

/-- R112: a stuck source. If, while a batch runs, the source never delivers, an OVS word at the head of the port is held
for ever, nothing behind it is reached and no register changes, whatever the agents try short of reset. -/
def Obligations.StuckSourceHoldsAnOvsWordForEver : Prop :=
  ∀ (n : Nat) (s : State) (w : Word) (ws : List Word),
    s.busy = true → s.samples = [] → s.words = w :: ws → isOvsWord w = true →
    (∀ t ∈ s.turns, t.isReset = false) →
    ∃ u, runFor n s = .next u ∧ u.regs = s.regs ∧ u.words = s.words ∧ u.responses = s.responses

/-- R104, R105: a running batch completes once its source has delivered what is left of the sixteen samples, and its sum
is then the old sum plus theirs. That the source delivers is a premise: the block does not supply it (R112, R158). -/
def Obligations.BatchCompletesOnceItsSamplesAreDelivered : Prop :=
  ∀ (s : State) (vs more : List Sample) (rest : List Turn),
    Inv s → s.busy = true → s.samples = vs ++ more → s.cnt.toNat + vs.length = 16 →
    s.turns = List.replicate vs.length .source ++ rest →
    ∃ u, runFor vs.length s = .next u ∧ u.busy = false ∧ u.cnt = 16#5 ∧ u.samples = more ∧ u.turns = rest ∧
      u.sum.toNat = s.sum.toNat + (vs.map BitVec.toNat).sum ∧ u.ch = s.ch ∧ u.crc = s.crc ∧ u.words = s.words ∧
      u.responses = s.responses
end

