-- ==== Sys2Proof/Laws/Crc.lean ====
section
/-! SUPPORT. The recursion equations of the CRC functions. -/

namespace Sys2Proof.Machine

@[simp] theorem crcRounds_zero (r : Byte) : crcRounds 0 r = r := rfl
theorem crcRounds_succ (n : Nat) (r : Byte) : crcRounds (n + 1) r = crcRounds n (crcRound r) := rfl

/-- Rounds compose. -/
theorem crcRounds_add (m n : Nat) (r : Byte) : crcRounds (m + n) r = crcRounds n (crcRounds m r) := by
  induction m generalizing r with
  | zero => simp
  | succ m ih => rw [Nat.succ_add]; exact ih (crcRound r)

@[simp] theorem crcFold_nil (r : Byte) : crcFold r [] = r := rfl
@[simp] theorem crcFold_cons (r b : Byte) (m : List Byte) : crcFold r (b :: m) = crcFold (crcByte r b) m := rfl

/-- A message absorbed in two parts is the message absorbed whole (R84: the register carries over). -/
theorem crcFold_append (r : Byte) (m m' : List Byte) : crcFold r (m ++ m') = crcFold (crcFold r m) m' :=
  List.foldl_append

end Sys2Proof.Machine
end

