-- ==== Sys2Proof/Laws/Decode.lean ====
section
/-! SUPPORT. The fields of a word and the word of fields are inverse; the decoder on each operation code; the operation
read from each encoded word. -/

namespace Sys2Proof

theorem fieldsOf_assemble (f : CmdFields) : fieldsOf (assemble f) = f := by
  obtain ⟨op, zero, arg⟩ := f
  simp only [fieldsOf, assemble, CmdFields.mk.injEq]
  refine ⟨?_, ?_, ?_⟩ <;>
    · apply BitVec.eq_of_getLsbD_eq
      intro i hi
      simp only [BitVec.getLsbD_extractLsb', BitVec.getLsbD_append, hi, decide_true, Bool.true_and]
      split <;> first | omega | (split <;> first | omega | (congr 1; omega)) | (congr 1; omega)

theorem assemble_fieldsOf (w : Word) : assemble (fieldsOf w) = w := by
  simp only [fieldsOf, assemble]
  apply BitVec.eq_of_getLsbD_eq
  intro i hi
  simp only [BitVec.getLsbD_extractLsb', BitVec.getLsbD_append]
  by_cases h8 : i < 8
  · simp [h8]
  · by_cases h12 : i < 12
    · have : i - 8 < 4 := by omega
      simp [h8, this, show 8 + (i - 8) = i by omega]
    · have h1 : ¬ i - 8 < 4 := by omega
      have h2 : i - 12 < 4 := by omega
      have h3 : i - 8 - 4 = i - 12 := by omega
      simp [h8, h1, h2, h3, show 12 + (i - 12) = i by omega]

/-- What a plain decoding can answer. -/
theorem decodePlain_legal_iff {i j : Instr} {f : CmdFields} :
    decodePlain i f = .legal j ↔ f.zero = 0#4 ∧ f.arg = 0#8 ∧ i = j := by
  unfold decodePlain
  split
  · simp_all
  · split <;> simp_all

/-- What a decoding with an operand can answer. -/
theorem decodeByte_legal_iff {mk : Byte → Instr} {j : Instr} {f : CmdFields} :
    decodeByte mk f = .legal j ↔ f.zero = 0#4 ∧ mk f.arg = j := by
  unfold decodeByte
  split <;> simp_all

theorem isLegal_iff (w : Word) : isLegal w = true ↔ ∃ i, decode w = .legal i := by
  unfold isLegal instrOf
  cases decode w <;> simp

theorem instrOf_eq_some_iff (w : Word) (i : Instr) : instrOf w = some i ↔ decode w = .legal i := by
  unfold instrOf
  cases decode w <;> simp

theorem isOvsWord_iff (w : Word) : isOvsWord w = true ↔ ∃ i, decode w = .legal i ∧ i.isOvs = true := by
  unfold isOvsWord instrOf
  cases decode w <;> simp

end Sys2Proof
end

