-- ==== Sys2Proof/Laws/Operands.lean ====
section
/-! SUPPORT. What the operand, slice and flag functions answer, in numbers. -/

namespace Sys2Proof.Machine

theorem channelValid_iff (ch : Byte) : channelValid ch = true ↔ ch.toNat < 8 :=
  decide_eq_true_iff

theorem channelValid_false_iff (ch : Byte) : channelValid ch = false ↔ 8 ≤ ch.toNat :=
  decide_eq_false_iff_not.trans Nat.not_lt

theorem sampleGate_valid {ch : Byte} (h : ch.toNat < 8) (v : Sample) : sampleGate ch v = v := by
  simp [sampleGate, (channelValid_iff ch).2 h]

theorem sampleGate_invalid {ch : Byte} (h : 8 ≤ ch.toNat) (v : Sample) : sampleGate ch v = 0#10 := by
  simp [sampleGate, (channelValid_false_iff ch).2 h]

@[simp] theorem zext14_toNat (v : Sample) : (zext14 v).toNat = v.toNat := by
  have := v.isLt
  simp only [zext14, BitVec.toNat_setWidth]
  omega

theorem resultOf_toNat (sum : SumWord) : (resultOf sum).toNat = sum.toNat / 4 := by
  have := sum.isLt
  simp only [resultOf, Config.ovsShift, Config.ovsBits, BitVec.extractLsb'_toNat, Nat.shiftRight_eq_div_pow]
  omega

theorem ovsResponse_toNat (sum : SumWord) : (ovsResponse sum).toNat = sum.toNat / 4 := by
  have := sum.isLt
  simp only [ovsResponse, BitVec.toNat_setWidth, resultOf_toNat]
  omega

@[simp] theorem cntAfterSample_toNat (cnt : CntWord) (h : cnt.toNat ≤ 15) :
    (cntAfterSample cnt).toNat = cnt.toNat + 1 := by
  simp only [cntAfterSample, BitVec.toNat_add, BitVec.toNat_ofNat]
  omega

theorem cntAfterSample_eq_sixteen_iff (cnt : CntWord) :
    cntAfterSample cnt = BitVec.ofNat 5 Config.ovsCount ↔ cnt = 15#5 := by
  have := cnt.isLt
  simp only [cntAfterSample, Config.ovsCount, Config.ovsBits, BitVec.toNat_eq, BitVec.toNat_add, BitVec.toNat_ofNat]
  omega

theorem busyAfterSample_true (cnt : CntWord) : busyAfterSample cnt true = decide (cnt ≠ 15#5) := by
  simp only [busyAfterSample, cntAfterSample_eq_sixteen_iff]
  by_cases h : cnt = 15#5 <;> simp [h]

theorem cntAfterRun_valid {ch : Byte} (h : ch.toNat < 8) : cntAfterRun ch = 0#5 := by
  simp [cntAfterRun, (channelValid_iff ch).2 h]

theorem cntAfterRun_invalid {ch : Byte} (h : 8 ≤ ch.toNat) : cntAfterRun ch = 16#5 := by
  simp [cntAfterRun, (channelValid_false_iff ch).2 h, Config.ovsCount, Config.ovsBits]

theorem busyAfterRun_valid {ch : Byte} (h : ch.toNat < 8) : busyAfterRun ch = true := (channelValid_iff ch).2 h

theorem busyAfterRun_invalid {ch : Byte} (h : 8 ≤ ch.toNat) : busyAfterRun ch = false :=
  (channelValid_false_iff ch).2 h

end Sys2Proof.Machine
end

