-- ==== Sys2Proof/Laws/PerInstr.lean ====
section
/-! SUPPORT. Per-instruction families, one lemma per constructor of `Instr`. -/

/-- The fields of every operation's word pass the checks of R67, and its `op` tells its unit (R64: `cmd[15]` is 0 for
the CRC unit and 1 for the OVS unit). -/
def Sys2Proof.Laws.EncodesLegal.Statement (i : Sys2Proof.Instr) : Prop :=
  (Sys2Proof.fieldsOf (Sys2Proof.encode i)).wf = true ∧ (Sys2Proof.fieldsOf (Sys2Proof.encode i)).op.msb = i.isOvs

theorem Sys2Proof.Laws.EncodesLegal.crcClr : Sys2Proof.Laws.EncodesLegal.Statement .crcClr := by
  constructor <;> decide

theorem Sys2Proof.Laws.EncodesLegal.crcUpd (b : Sys2Proof.Byte) :
    Sys2Proof.Laws.EncodesLegal.Statement (.crcUpd b) := by
  unfold Sys2Proof.Laws.EncodesLegal.Statement
  rw [Sys2Proof.encode, Sys2Proof.fieldsOf_assemble]
  exact ⟨rfl, by simp only [Sys2Proof.fieldsFor, Sys2Proof.Instr.isOvs]; decide⟩

theorem Sys2Proof.Laws.EncodesLegal.crcGet : Sys2Proof.Laws.EncodesLegal.Statement .crcGet := by
  constructor <;> decide

theorem Sys2Proof.Laws.EncodesLegal.ovsRun (ch : Sys2Proof.Byte) :
    Sys2Proof.Laws.EncodesLegal.Statement (.ovsRun ch) := by
  unfold Sys2Proof.Laws.EncodesLegal.Statement
  rw [Sys2Proof.encode, Sys2Proof.fieldsOf_assemble]
  exact ⟨rfl, by simp only [Sys2Proof.fieldsFor, Sys2Proof.Instr.isOvs]; decide⟩

theorem Sys2Proof.Laws.EncodesLegal.ovsGet : Sys2Proof.Laws.EncodesLegal.Statement .ovsGet := by
  constructor <;> decide
end

