-- ==== Sys2Proof/Laws/State.lean ====
section
/-! SUPPORT. One lemma per field per update of the state, so that no later proof unfolds an update. -/

namespace Sys2Proof.Machine

variable (s : State)

/-! ### `accept` (Machine/Ops.lean, R43) -/

@[simp] theorem State.accept_crc : s.accept.crc = s.crc := rfl
@[simp] theorem State.accept_sum : s.accept.sum = s.sum := rfl
@[simp] theorem State.accept_cnt : s.accept.cnt = s.cnt := rfl
@[simp] theorem State.accept_ch : s.accept.ch = s.ch := rfl
@[simp] theorem State.accept_busy : s.accept.busy = s.busy := rfl
@[simp] theorem State.accept_words : s.accept.words = s.words.tail := rfl
@[simp] theorem State.accept_samples : s.accept.samples = s.samples := rfl
@[simp] theorem State.accept_turns : s.accept.turns = s.turns := rfl
@[simp] theorem State.accept_responses : s.accept.responses = s.responses := rfl

/-! ### `hold` (R66) -/

@[simp] theorem State.hold_crc : s.hold.crc = s.crc := rfl
@[simp] theorem State.hold_sum : s.hold.sum = s.sum := rfl
@[simp] theorem State.hold_cnt : s.hold.cnt = s.cnt := rfl
@[simp] theorem State.hold_ch : s.hold.ch = s.ch := rfl
@[simp] theorem State.hold_busy : s.hold.busy = s.busy := rfl
@[simp] theorem State.hold_words : s.hold.words = s.words := rfl
@[simp] theorem State.hold_samples : s.hold.samples = s.samples := rfl
@[simp] theorem State.hold_turns : s.hold.turns = s.turns := rfl
@[simp] theorem State.hold_responses : s.hold.responses = s.responses := rfl

/-! ### `respond` (R46) -/

@[simp] theorem State.respond_crc (v : Word) : (s.respond v).crc = s.crc := rfl
@[simp] theorem State.respond_sum (v : Word) : (s.respond v).sum = s.sum := rfl
@[simp] theorem State.respond_cnt (v : Word) : (s.respond v).cnt = s.cnt := rfl
@[simp] theorem State.respond_ch (v : Word) : (s.respond v).ch = s.ch := rfl
@[simp] theorem State.respond_busy (v : Word) : (s.respond v).busy = s.busy := rfl
@[simp] theorem State.respond_words (v : Word) : (s.respond v).words = s.words := rfl
@[simp] theorem State.respond_samples (v : Word) : (s.respond v).samples = s.samples := rfl
@[simp] theorem State.respond_turns (v : Word) : (s.respond v).turns = s.turns := rfl
@[simp] theorem State.respond_responses (v : Word) : (s.respond v).responses = s.responses ++ [v] := rfl

/-! ### `acceptIllegal` (R68) -/

@[simp] theorem State.acceptIllegal_crc : s.acceptIllegal.crc = s.crc := rfl
@[simp] theorem State.acceptIllegal_sum : s.acceptIllegal.sum = s.sum := rfl
@[simp] theorem State.acceptIllegal_cnt : s.acceptIllegal.cnt = s.cnt := rfl
@[simp] theorem State.acceptIllegal_ch : s.acceptIllegal.ch = s.ch := rfl
@[simp] theorem State.acceptIllegal_busy : s.acceptIllegal.busy = s.busy := rfl
@[simp] theorem State.acceptIllegal_words : s.acceptIllegal.words = s.words.tail := rfl
@[simp] theorem State.acceptIllegal_samples : s.acceptIllegal.samples = s.samples := rfl
@[simp] theorem State.acceptIllegal_turns : s.acceptIllegal.turns = s.turns := rfl
@[simp] theorem State.acceptIllegal_responses : s.acceptIllegal.responses = s.responses := rfl

/-! ### `stepReset` (R150) -/

@[simp] theorem State.stepReset_crc : s.stepReset.crc = 0x00#8 := rfl
@[simp] theorem State.stepReset_sum : s.stepReset.sum = 0#14 := rfl
@[simp] theorem State.stepReset_cnt : s.stepReset.cnt = 0#5 := rfl
@[simp] theorem State.stepReset_ch : s.stepReset.ch = 0#3 := rfl
@[simp] theorem State.stepReset_busy : s.stepReset.busy = false := rfl
@[simp] theorem State.stepReset_words : s.stepReset.words = s.words := rfl
@[simp] theorem State.stepReset_samples : s.stepReset.samples = s.samples := rfl
@[simp] theorem State.stepReset_turns : s.stepReset.turns = s.turns := rfl
@[simp] theorem State.stepReset_responses : s.stepReset.responses = s.responses := rfl

/-! ### `startBatch` (R102) -/

@[simp] theorem State.startBatch_crc (c : Byte) : (s.startBatch c).crc = s.crc := rfl
@[simp] theorem State.startBatch_sum (c : Byte) : (s.startBatch c).sum = 0#14 := rfl
@[simp] theorem State.startBatch_cnt (c : Byte) : (s.startBatch c).cnt = cntAfterRun c := rfl
@[simp] theorem State.startBatch_ch (c : Byte) : (s.startBatch c).ch = channelLatch c := rfl
@[simp] theorem State.startBatch_busy (c : Byte) : (s.startBatch c).busy = busyAfterRun c := rfl
@[simp] theorem State.startBatch_words (c : Byte) : (s.startBatch c).words = s.words := rfl
@[simp] theorem State.startBatch_samples (c : Byte) : (s.startBatch c).samples = s.samples := rfl
@[simp] theorem State.startBatch_turns (c : Byte) : (s.startBatch c).turns = s.turns := rfl
@[simp] theorem State.startBatch_responses (c : Byte) : (s.startBatch c).responses = s.responses := rfl

/-! ### `addSample` (R104) -/

@[simp] theorem State.addSample_crc (v : Sample) : (s.addSample v).crc = s.crc := rfl
@[simp] theorem State.addSample_sum (v : Sample) : (s.addSample v).sum = s.sum + zext14 v := rfl
@[simp] theorem State.addSample_cnt (v : Sample) : (s.addSample v).cnt = cntAfterSample s.cnt := rfl
@[simp] theorem State.addSample_ch (v : Sample) : (s.addSample v).ch = s.ch := rfl
@[simp] theorem State.addSample_busy (v : Sample) : (s.addSample v).busy = busyAfterSample s.cnt s.busy := rfl
@[simp] theorem State.addSample_words (v : Sample) : (s.addSample v).words = s.words := rfl
@[simp] theorem State.addSample_samples (v : Sample) : (s.addSample v).samples = s.samples := rfl
@[simp] theorem State.addSample_turns (v : Sample) : (s.addSample v).turns = s.turns := rfl
@[simp] theorem State.addSample_responses (v : Sample) : (s.addSample v).responses = s.responses := rfl

/-! ### `offerNext` (withFetchWord) -/

@[simp] theorem State.offerNext_crc (w : Word) : (s.offerNext w).crc = s.crc := rfl
@[simp] theorem State.offerNext_sum (w : Word) : (s.offerNext w).sum = s.sum := rfl
@[simp] theorem State.offerNext_cnt (w : Word) : (s.offerNext w).cnt = s.cnt := rfl
@[simp] theorem State.offerNext_ch (w : Word) : (s.offerNext w).ch = s.ch := rfl
@[simp] theorem State.offerNext_busy (w : Word) : (s.offerNext w).busy = s.busy := rfl
@[simp] theorem State.offerNext_words (w : Word) : (s.offerNext w).words = w :: s.words := rfl
@[simp] theorem State.offerNext_samples (w : Word) : (s.offerNext w).samples = s.samples := rfl
@[simp] theorem State.offerNext_turns (w : Word) : (s.offerNext w).turns = .host :: s.turns := rfl
@[simp] theorem State.offerNext_responses (w : Word) : (s.offerNext w).responses = s.responses := rfl

/-! ### `hostAtReset` (R43, R151) -/

@[simp] theorem State.hostAtReset_true : s.hostAtReset true = s := rfl
@[simp] theorem State.hostAtReset_words (keeps : Bool) :
    (s.hostAtReset keeps).words = if keeps then s.words else s.words.tail := by
  cases keeps <;> rfl
@[simp] theorem State.hostAtReset_crc (keeps : Bool) : (s.hostAtReset keeps).crc = s.crc := by cases keeps <;> rfl
@[simp] theorem State.hostAtReset_sum (keeps : Bool) : (s.hostAtReset keeps).sum = s.sum := by cases keeps <;> rfl
@[simp] theorem State.hostAtReset_cnt (keeps : Bool) : (s.hostAtReset keeps).cnt = s.cnt := by cases keeps <;> rfl
@[simp] theorem State.hostAtReset_ch (keeps : Bool) : (s.hostAtReset keeps).ch = s.ch := by cases keeps <;> rfl
@[simp] theorem State.hostAtReset_busy (keeps : Bool) : (s.hostAtReset keeps).busy = s.busy := by cases keeps <;> rfl
@[simp] theorem State.hostAtReset_samples (keeps : Bool) : (s.hostAtReset keeps).samples = s.samples := by cases keeps <;> rfl
@[simp] theorem State.hostAtReset_turns (keeps : Bool) : (s.hostAtReset keeps).turns = s.turns := by cases keeps <;> rfl
@[simp] theorem State.hostAtReset_responses (keeps : Bool) : (s.hostAtReset keeps).responses = s.responses := by cases keeps <;> rfl

end Sys2Proof.Machine
end

