-- ==== Sys2Proof/Laws/Step.lean ====
section
/-! SUPPORT. Everything a turn can do, said once: one equation per meaning, and an inversion lemma for the host's turn,
for the source's turn and for a step. Later proofs cite these and unfold no meaning. -/

namespace Sys2Proof.Machine

/-! ### One equation per meaning -/

theorem exec_crcClr (s : State) : exec .crcClr s = .next { s.accept with crc := 0x00#8 } := rfl

theorem exec_crcUpd (b : Byte) (s : State) :
    exec (.crcUpd b) s = .next { s.accept with crc := crcByte s.crc b } := rfl

theorem exec_crcGet (s : State) : exec .crcGet s = .next (s.accept.respond (crcResponse s.crc)) := rfl

theorem exec_ovsRun (ch : Byte) (s : State) :
    exec (.ovsRun ch) s = .next (if s.busy = true then s else s.accept.startBatch ch) := by
  simp only [exec, execOvsRun, State.hold]
  split <;> rfl

theorem exec_ovsGet (s : State) :
    exec .ovsGet s = .next (if s.busy = true then s else s.accept.respond (ovsResponse s.sum)) := by
  simp only [exec, execOvsGet, State.hold]
  split <;> rfl

/-- What one operation can do: each case names the operation, when it is performed or held, and the state it gives. -/
theorem exec_cases {i : Instr} {s t : State} (h : exec i s = .next t) :
    (i = .crcClr ∧ t = { s.accept with crc := 0x00#8 }) ∨
    (∃ b, i = .crcUpd b ∧ t = { s.accept with crc := crcByte s.crc b }) ∨
    (i = .crcGet ∧ t = s.accept.respond (crcResponse s.crc)) ∨
    (∃ ch, i = .ovsRun ch ∧ s.busy = false ∧ t = s.accept.startBatch ch) ∨
    (i = .ovsGet ∧ s.busy = false ∧ t = s.accept.respond (ovsResponse s.sum)) ∨
    (i.isOvs = true ∧ s.busy = true ∧ t = s) := by
  cases i with
  | crcClr => left; exact ⟨rfl, by simpa [exec_crcClr] using h.symm⟩
  | crcUpd b => right; left; exact ⟨b, rfl, by simpa [exec_crcUpd] using h.symm⟩
  | crcGet => right; right; left; exact ⟨rfl, by simpa [exec_crcGet] using h.symm⟩
  | ovsRun ch =>
    rw [exec_ovsRun] at h
    cases hb : s.busy <;> simp_all [Instr.isOvs]
  | ovsGet =>
    rw [exec_ovsGet] at h
    cases hb : s.busy <;> simp_all [Instr.isOvs]

/-! ### The host's turn -/

@[simp] theorem hostTurn_nil {s : State} (h : s.words = []) : hostTurn s = .next s := by
  simp [hostTurn, h]

theorem hostTurn_legal {s : State} {w : Word} {ws : List Word} {i : Instr} (h : s.words = w :: ws)
    (hd : decode w = .legal i) : hostTurn s = exec i s := by
  simp [hostTurn, h, hd]

theorem hostTurn_illegal {s : State} {w : Word} {ws : List Word} {why : Illegal} (h : s.words = w :: ws)
    (hd : decode w = .illegal why) : hostTurn s = .next s.accept := by
  simp [hostTurn, h, hd, State.acceptIllegal]

/-- What the host's turn can do. -/
theorem hostTurn_cases {s t : State} (h : hostTurn s = .next t) :
    (s.words = [] ∧ t = s) ∨
    (∃ w ws why, s.words = w :: ws ∧ decode w = .illegal why ∧ t = s.accept) ∨
    (∃ w ws i, s.words = w :: ws ∧ decode w = .legal i ∧ exec i s = .next t) := by
  cases hw : s.words with
  | nil => left; exact ⟨rfl, by simpa [hostTurn_nil hw] using h.symm⟩
  | cons w ws =>
    cases hd : decode w with
    | illegal why =>
      right; left
      exact ⟨w, ws, why, rfl, hd, by simpa [hostTurn_illegal hw hd] using h.symm⟩
    | legal i =>
      right; right
      exact ⟨w, ws, i, rfl, hd, by rwa [hostTurn_legal hw hd] at h⟩

/-! ### The source's turn -/

theorem sourceTurn_idle {s : State} (h : s.busy = false) : s.sourceTurn = s := by
  simp [State.sourceTurn, h]

theorem sourceTurn_empty {s : State} (h : s.samples = []) : s.sourceTurn = s := by
  simp [State.sourceTurn, h]

theorem sourceTurn_deliver {s : State} {v : Sample} {vs : List Sample} (hb : s.busy = true)
    (hs : s.samples = v :: vs) : s.sourceTurn = ({ s with samples := vs } : State).addSample v := by
  simp [State.sourceTurn, hb, hs]

/-- What the source's turn can do. -/
theorem sourceTurn_cases (s : State) :
    ((s.busy = false ∨ s.samples = []) ∧ s.sourceTurn = s) ∨
    (∃ v vs, s.busy = true ∧ s.samples = v :: vs ∧
      s.sourceTurn = ({ s with samples := vs } : State).addSample v) := by
  rcases Bool.eq_false_or_eq_true s.busy with hb | hb
  · rcases hs : s.samples with _ | ⟨v, vs⟩
    · left; exact ⟨.inr rfl, sourceTurn_empty hs⟩
    · right; exact ⟨v, vs, hb, rfl, sourceTurn_deliver hb hs⟩
  · left; exact ⟨.inl hb, sourceTurn_idle hb⟩

/-! ### A step -/

theorem step_noTurn {s : State} (h : s.turns = []) : step s = .next s := by
  simp [step, takeTurn, h]

theorem step_turn {s : State} {t : Turn} {ts : List Turn} (h : s.turns = t :: ts) :
    step s = runTurn t { s with turns := ts } := by
  simp [step, takeTurn, h]

theorem bothTurn_idle {s : State} (h : s.busy = false) : bothTurn s = hostTurn s := by
  simp [bothTurn, h]

theorem bothTurn_running {s t : State} (h : s.busy = true) (ht : hostTurn s = .next t) :
    bothTurn s = .next t.sourceTurn := by
  simp [bothTurn, h, ht]

theorem bothTurn_running_next {s t : State} (h : s.busy = true) (ht : bothTurn s = .next t) :
    ∃ u, hostTurn s = .next u ∧ t = u.sourceTurn := by
  simp only [bothTurn, h] at ht
  cases hh : hostTurn s with
  | next u => exact ⟨u, rfl, by simpa [hh] using ht.symm⟩
  | fault r => simp [hh] at ht
  | refused r => simp [hh] at ht

/-- What a step can do. -/
theorem step_cases {s t : State} (h : step s = .next t) :
    (s.turns = [] ∧ t = s) ∨
    (∃ ts, s.turns = .host :: ts ∧ hostTurn { s with turns := ts } = .next t) ∨
    (∃ ts, s.turns = .source :: ts ∧ t = ({ s with turns := ts } : State).sourceTurn) ∨
    (∃ ts, s.turns = .both :: ts ∧ s.busy = false ∧ hostTurn { s with turns := ts } = .next t) ∨
    (∃ ts u, s.turns = .both :: ts ∧ s.busy = true ∧ hostTurn { s with turns := ts } = .next u ∧
      t = u.sourceTurn) ∨
    (∃ keeps ts, s.turns = .reset keeps :: ts ∧
      t = (({ s with turns := ts } : State).hostAtReset keeps).stepReset) := by
  cases hs : s.turns with
  | nil => left; exact ⟨rfl, by simpa [step_noTurn hs] using h.symm⟩
  | cons a ts =>
    right
    rw [step_turn hs] at h
    cases a with
    | host => left; exact ⟨ts, rfl, h⟩
    | source => right; left; exact ⟨ts, rfl, by simpa [runTurn] using h.symm⟩
    | both =>
      right; right
      rcases Bool.eq_false_or_eq_true s.busy with hb | hb
      · right; left
        obtain ⟨u, hu, rfl⟩ := bothTurn_running_next (s := { s with turns := ts }) hb h
        exact ⟨ts, u, rfl, hb, hu, rfl⟩
      · left; exact ⟨ts, rfl, hb, by rwa [runTurn, bothTurn_idle (by exact hb)] at h⟩
    | reset keeps => right; right; right; right; exact ⟨keeps, ts, rfl, by simpa [runTurn] using h.symm⟩

/-! ### Runs -/

@[simp] theorem runFor_zero (s : State) : runFor 0 s = .next s := rfl

theorem runFor_succ {n : Nat} {s t : State} (h : step s = .next t) : runFor (n + 1) s = runFor n t := by
  have h' : Sys2Proof.core.step s = .next t := h
  simp only [runFor, Host.Core.run, h']
  rfl

end Sys2Proof.Machine
end

