-- ==== Sys2Proof/Tests/Slice0.lean ====
section
/-! SUPPORT. Tests. Every expected value is taken from spec/ (the vector V<n> of 95_test_vectors.md, or the rule's own
example, named beside it), never from the model. Then, for each statement with hypotheses, a named state and operands
that meet them. -/

namespace Sys2Proof.Tests

open Sys2Proof Sys2Proof.Machine

/-! ### Helpers -/

/-- The state after a step, if there is one. -/
def after (o : Host.Outcome State Fault Refusal) : Option State :=
  match o with
  | .next s => some s
  | .fault _ => none
  | .refused _ => none

/-- A state written `CRC SUM CNT CH BUSY` as 95_test_vectors.md writes it, with no input. -/
def st (crc : Byte) (sum : SumWord) (cnt : CntWord) (ch : Channel) (busy : Bool) : State :=
  { crc := crc, sum := sum, cnt := cnt, ch := ch, busy := busy, words := [], samples := [], turns := [], responses := [] }

/-- `s` with the host about to offer `w`. -/
def offering (w : Word) (s : State) : State := { s with words := [w], turns := [.host] }

/-- `s` with the source about to present `v`. -/
def presenting (v : Sample) (s : State) : State := { s with samples := [v], turns := [.source] }

/-! ### WellFormed: an ill-formed word for each check (V31) -/

theorem test_wf_reserved_op : (fieldsOf 0x4000#16).opKnown = false ∧ (fieldsOf 0x4000#16).wf = false := by decide
theorem test_wf_zero_field : (fieldsOf 0x8107#16).zeroOk = false ∧ (fieldsOf 0x8107#16).wf = false := by decide
theorem test_wf_arg_field : (fieldsOf 0x9001#16).argOk = false ∧ (fieldsOf 0x9001#16).wf = false := by decide
theorem test_wf_legal : (fieldsOf 0x1000#16).wf = true ∧ (fieldsOf 0x20FF#16).wf = true := by decide
theorem test_instr_wf : Instr.wf (.crcUpd 0xFF#8) = true ∧ Instr.wf (.ovsRun 0xFF#8) = true := by decide

/-! ### Decode: one word per constructor, bit by bit from the patterns of R64 -/

theorem test_decode_crcClr : decode 0b0001000000000000#16 = .legal .crcClr := by decide
theorem test_decode_crcUpd : decode 0b0010000010100101#16 = .legal (.crcUpd 0xA5#8) := by decide
theorem test_decode_crcGet : decode 0b0011000000000000#16 = .legal .crcGet := by decide
theorem test_decode_ovsRun : decode 0b1000000000000111#16 = .legal (.ovsRun 7#8) := by decide
theorem test_decode_ovsGet : decode 0b1001000000000000#16 = .legal .ovsGet := by decide

/-- V31: the illegal words, each with R67's reason. -/
theorem test_decode_illegal_op : [0x0000#16, 0x0FFF#16, 0x4000#16, 0x7FFF#16, 0xA000#16, 0xFFFF#16].map decode =
    List.replicate 6 (.illegal .reservedOp) := by decide
theorem test_decode_illegal_zero : [0x1100#16, 0x2100#16, 0x2F00#16, 0x8100#16, 0x8107#16, 0x9100#16].map decode =
    List.replicate 6 (.illegal .zeroField) := by decide
theorem test_decode_illegal_arg : [0x1001#16, 0x3001#16, 0x9001#16].map decode =
    List.replicate 3 (.illegal .argField) := by decide

/-- The table's numbering: bit 0 is `cmd[0]`. -/
theorem test_decodeTableWord : decodeTableWord 16 0x2004 = some (.crcUpd 4#8) ∧ decodeTableWord 16 0x9001 = none := by
  decide

/-! ### The CRC functions (V9, V10, V11, V12, V19, R47) -/

theorem test_crcRound : [0x55#8, 0x7F#8, 0x80#8, 0xAA#8].map crcRound = [0xAA#8, 0xFE#8, 0x07#8, 0x53#8] := by decide
theorem test_crcByte : crcByte 0x12#8 0x34#8 = 0xF2#8 ∧ crcByte 0x55#8 0xAA#8 = 0xF3#8 := by decide
theorem test_crc8_order : crc8 [0x01#8, 0x00#8] = 0x15#8 ∧ crc8 [0x00#8, 0x01#8] = 0x07#8 := by decide +kernel
theorem test_crc8_digits :
    crc8 [0x31#8, 0x32#8, 0x33#8, 0x34#8, 0x35#8, 0x36#8, 0x37#8, 0x38#8, 0x39#8] = 0xF4#8 := by decide +kernel
theorem test_crc8_frame : crc8 [0x20#8, 0x04#8, 0x00#8, 0x01#8, 0x23#8] = 0xC0#8 := by decide +kernel
theorem test_crcByteBits : crcByteBits 0x00#8 0x80#8 = 0x89#8 ∧ crcByteBits 0x00#8 0xE4#8 = 0xB2#8 := by decide

/-! ### The CRC operations (V18, P5) -/

theorem test_crcClr : (after (step (offering 0x1000#16 (st 0xAC 0 0 0 false)))).map State.crc = some 0x00#8 := by decide
theorem test_crcUpd : (after (step (offering 0x2004#16 (st 0xE0 0 0 0 false)))).map State.crc = some 0xB2#8 := by decide
/-- P5: accepted although `BUSY = 1`, and the batch is not disturbed. -/
theorem test_crcUpd_busy : (after (step (offering 0x20FF#16 (st 0x00 0x07E7 5 2 true)))) =
    some (st 0xF3 0x07E7 5 2 true) := by decide
theorem test_crcGet : (after (step (offering 0x3000#16 (st 0xC0 0 0 0 true)))).map (fun s => (s.crc, s.responses)) =
    some (0xC0#8, [0x00C0#16]) := by decide

/-! ### The OVS operations (step-level vectors of part C, V27, V28b) -/

theorem test_ovsRun : after (step (offering 0x8000#16 (st 0 0x3FF0 16 7 false))) = some (st 0 0 0 0 true) := by decide
theorem test_ovsRun_invalid : after (step (offering 0x80FF#16 (st 0 0x3FF0 16 2 false))) =
    some (st 0 0 16 7 false) := by decide
/-- Held: the word stays offered. -/
theorem test_ovsGet_held : after (step (offering 0x9000#16 (st 0 0x07E7 5 2 true))) =
    some { st 0 0x07E7 5 2 true with words := [0x9000#16] } := by decide
theorem test_ovsGet : after (step (offering 0x9000#16 (st 0 0x048C 16 0 false))) =
    some { st 0 0x048C 16 0 false with responses := [0x0123#16] } := by decide

/-! ### SAMPLE, reset, illegal words (part C, V31, V32) -/

theorem test_sample_last : after (step (presenting 1023#10 (st 0 0x3BF1 15 7 true))) = some (st 0 0x3FF0 16 7 false) := by
  decide
theorem test_sample_idle : after (step (presenting 5#10 (st 0 0x3FF0 16 7 false))) =
    some { st 0 0x3FF0 16 7 false with samples := [5#10] } := by decide
theorem test_reset : after (step { st 0xF3 0x07E7 5 2 true with turns := [.reset true] }) = some (st 0 0 0 0 false) := by
  decide
theorem test_illegal : after (step (offering 0x8107#16 (st 0xF3 0x07E7 5 2 true))) = some (st 0xF3 0x07E7 5 2 true) := by
  decide

/-! ### Oversampling (V20, V22c, V26, V29) -/

theorem test_ovsRes_max : ovsRes (List.replicate 16 1023#10) = 0xFFC#12 := by decide
theorem test_ovsRes_truncates : ovsRes (List.replicate 15 1#10 ++ [0#10]) = 3#12 := by decide
theorem test_ovsRes_order : ovsRes (List.replicate 4 72#10 ++ List.replicate 12 73#10) = 0x123#12 := by decide
theorem test_ovsRes_mixed : ovsRes [1023#10, 0#10, 512#10, 511#10, 1#10, 2#10, 3#10, 4#10, 1000#10, 23#10, 700#10,
    300#10, 5#10, 5#10, 5#10, 6#10] = 1025#12 := by decide

/-! ### The words of the pseudo-instructions (R121, R123) and a launch state (R18) -/

theorem test_crc8Words : crc8Words [0x40#8, 0x02#8, 0x00#8] = [0x1000#16, 0x2040#16, 0x2002#16, 0x2000#16, 0x3000#16] := by
  decide
theorem test_readOvsWords : readOvsWords 3#8 = [0x8003#16, 0x9000#16] := by decide
theorem test_launch : (State.launch [0x3000#16] [] [.host]).runEnded = false ∧
    (after (step (State.launch [0x3000#16] [] [.host]))).map (fun s => (s.runEnded, s.responses)) =
      some (true, [0x0000#16]) := by decide

/-! ### States and operands that meet the hypotheses of the statements -/

/-- P2 before its last sample: a running batch that meets R31. -/
def running : State := st 0 0x0444 15 0 true

theorem running_inv : Inv running := ⟨by decide, by decide, by decide, by decide⟩

/-- A completed batch that meets R31. -/
def completed : State := st 0 0x3FF0 16 7 false

theorem completed_inv : Inv completed := ⟨by decide, by decide, by decide, by decide⟩

theorem hyp_OpTableRowsSelectTheDecodedOperation :
    (rowCrcUpd ∈ opTable ∧ rowCrcUpd.selects 0x20FF#16 = true) ∧ decode 0x8000#16 = .legal (.ovsRun 0#8) ∧
    completed.busy = false ∧ ∃ t, exec .ovsGet completed = .next t := by
  exact ⟨by decide, by decide, rfl, _, rfl⟩

theorem hyp_ReservedFieldsMakeAWordIllegal :
    (BitVec.extractLsb' 8 4 0x2100#16 ≠ 0#4) ∧
    (BitVec.extractLsb' 12 4 0x9001#16 ∈ [0x1#4, 0x3#4, 0x9#4] ∧ BitVec.extractLsb' 0 8 0x9001#16 ≠ 0#8) ∧
    BitVec.extractLsb' 12 4 0xFFFF#16 ∈
      [0x0#4, 0x4#4, 0x5#4, 0x6#4, 0x7#4, 0xA#4, 0xB#4, 0xC#4, 0xD#4, 0xE#4, 0xF#4] := by decide

theorem hyp_StepPerformsTheDecodedInstruction :
    ((offering 0x9000#16 completed).turns = .host :: [] ∧ (offering 0x9000#16 completed).words = 0x9000#16 :: [] ∧
      decode 0x9000#16 = .legal .ovsGet) ∧
    (∀ s ∈ [running, completed], ({ offering 0x9000#16 s with turns := [.both] } : State).turns = .both :: [] ∧
      ({ offering 0x9000#16 s with turns := [.both] } : State).words = 0x9000#16 :: []) ∧
    running.busy = true ∧ completed.busy = false := by decide

theorem hyp_CommandStepPerformsOrHolds :
    ((offering 0x8008#16 running).turns = .host :: [] ∧ (offering 0x8008#16 running).words = 0x8008#16 :: []) ∧
    (running.busy = true ∧ running.samples = [] ∧
      ∀ t ∈ ({ running with turns := [.host, .source, .both] } : State).turns, t.isReset = false) ∧
    ∃ t, step (presenting 72#10 running) = .next t ∧ t.busy = false := by
  exact ⟨by decide, by decide, _, rfl, by decide⟩

theorem hyp_IllegalWordIsAcceptedWithoutEffect :
    (offering 0x4000#16 running).turns = .host :: [] ∧ (offering 0x4000#16 running).words = 0x4000#16 :: [] ∧
    isLegal 0x4000#16 = false := by decide

theorem hyp_StepTakesAtMostTheOfferedWordAndTheNextSample :
    ∃ t, step (presenting 72#10 running) = .next t ∧ t.samples = [] := ⟨_, rfl, rfl⟩

theorem hyp_NoAgentActingChangesNothing :
    running.turns = [] ∧ ({ running with turns := [.host] } : State).turns = .host :: [] ∧
    ({ running with turns := [.host] } : State).words = [] := by decide

theorem hyp_CrcIsLinearOverXor : [0x40#8, 0x02#8, 0x00#8].length = [0x41#8, 0x02#8, 0x01#8].length := by decide

theorem hyp_CrcRoundAndByteArePermutations : (0x00#8 : Byte) ≠ 0x5A#8 := by decide

theorem hyp_CrcClrClearsTheCrcRegister : ∃ t, exec .crcClr running = .next t ∧ running.crc = 0x00#8 := ⟨_, rfl, rfl⟩

theorem hyp_CrcGetRespondsWithTheRegister :
    (∃ t, exec .crcGet (st 0xFF 0 0 0 false) = .next t) ∧ ∃ t, exec .crcClr (st 0xFF 0 0 0 false) = .next t :=
  ⟨⟨_, rfl⟩, ⟨_, rfl⟩⟩

theorem hyp_SampleGatePassesOnlyValidChannels :
    completed.busy = false ∧ 8 ≤ (8#8).toNat ∧ ∃ t, exec (.ovsRun 8#8) completed = .next t :=
  ⟨rfl, by decide, _, rfl⟩

theorem hyp_OvsRunStartsABatchOrIsHeld :
    completed.busy = false ∧ (7#8).toNat < 8 ∧ 8 ≤ (8#8).toNat ∧ running.busy = true ∧
    ∃ t, exec (.ovsRun 8#8) completed = .next t := ⟨rfl, by decide, by decide, rfl, _, rfl⟩

theorem hyp_OvsGetRespondsWithTheShiftedSumOrIsHeld :
    completed.busy = false ∧ running.busy = true ∧ Inv completed ∧ ∃ t, exec .ovsGet completed = .next t :=
  ⟨rfl, rfl, completed_inv, _, rfl⟩

theorem hyp_SampleIsAddedOnlyWhileABatchRuns :
    ((presenting 72#10 running).turns = .source :: [] ∧ (presenting 72#10 running).samples = 72#10 :: [] ∧
      (presenting 72#10 running).busy = true) ∧
    ((presenting 72#10 completed).turns = .source :: [] ∧ (presenting 72#10 completed).busy = false) ∧
    ((st 0 0x3BF1 15 0 true).sum = 0x3BF1#14 ∧ (st 0 0x3BF1 15 0 true).cnt = 15#5 ∧ (st 0 0x3BF1 15 0 true).busy = true) ∧
    ((st 0 0x0005 2 0 true).sum = 0x0005#14 ∧ (st 0 0x0005 2 0 true).cnt = 2#5 ∧ (st 0 0x0005 2 0 true).busy = true) := by
  decide

theorem hyp_InvalidChannelEndsAsSixteenZeroSamplesWould : completed.busy = false ∧ 8 ≤ (8#8).toNat := by decide

/-- Sixteen samples, for every statement about a whole batch. -/
theorem hyp_sixteenSamples : (List.replicate 16 1023#10 : List Sample).length = 16 := by decide

theorem hyp_AddingASampleNeverWraps : Inv running ∧ running.busy = true := ⟨running_inv, rfl⟩

theorem hyp_ResultRangesFromZeroTo4092 : (4092 : Nat) ≤ 4092 ∧ (List.replicate 16 1023#10 : List Sample).length = 16 := by
  decide

theorem hyp_OversamplingIdentities :
    ([0#10] ++ 3#10 :: List.replicate 14 1#10 : List Sample).length = 16 ∧ (3#10).toNat ≤ (4#10).toNat ∧
    ((List.replicate 8 2#10 ++ List.replicate 8 0#10 : List Sample).map BitVec.toNat).sum =
      ((List.replicate 16 1#10 : List Sample).map BitVec.toNat).sum ∧
    ([1#10, 2#10] : List Sample).Perm [2#10, 1#10] := by decide

theorem hyp_ResetPutsEveryRegisterAtItsResetValue :
    (∀ k : Bool, ({ running with turns := [.reset k] } : State).turns = .reset k :: []) ∧
    ({ rst := true, cmdValid := true, cmd := 0x3000#16, sValid := true, sData := 0#10 } : PinsIn).rst = true :=
  ⟨fun _ => rfl, rfl⟩

theorem hyp_ResetAbandonsTheBatchAndTheHold :
    (running.busy = true ∧ encode .ovsGet = 0x9000#16 ∧ encode (.ovsRun 7#8) = 0x8007#16 ∧ (7#8).toNat < 8) ∧
    (∀ w : Word, ({ running with words := [w], turns := [.host, .reset true, .host] } : State).words = w :: [] ∧
      ({ running with words := [w], turns := [.host, .reset true, .host] } : State).turns =
        .host :: .reset true :: .host :: []) ∧
    (Inv (presenting 72#10 running) ∧ ∃ t, step (presenting 72#10 running) = .next t ∧ t.busy = false) ∧
    ∃ t, step { running with turns := [.reset true] } = .next t ∧ t.busy = false :=
  ⟨by decide, fun _ => ⟨rfl, rfl⟩, ⟨⟨by decide, by decide, by decide, by decide⟩, _, rfl, by decide⟩, _, rfl, rfl⟩

theorem hyp_EveryStepKeepsTheInvariants :
    Inv (presenting 1023#10 running) ∧ ∃ t, step (presenting 1023#10 running) = .next t :=
  ⟨⟨by decide, by decide, by decide, by decide⟩, _, rfl⟩

theorem hyp_OvsUnitMovesAsItsStateMachine :
    (∃ t, step (offering 0x8007#16 completed) = .next t ∧ t.busy = true) ∧ Inv completed ∧ Inv running ∧
    completed.busy = false ∧ running.busy = true :=
  ⟨⟨_, rfl, rfl⟩, completed_inv, running_inv, rfl, rfl⟩

theorem hyp_ChannelIsConstantWhileABatchRuns :
    Inv (presenting 1#10 running) ∧ (presenting 1#10 running).busy = true ∧
    (presenting 1#10 running).resetNow = false ∧ ∃ t, step (presenting 1#10 running) = .next t :=
  ⟨⟨by decide, by decide, by decide, by decide⟩, rfl, rfl, _, rfl⟩

theorem hyp_UnitsDoNotInterfere :
    (∃ t, step (offering 0x3000#16 running) = .next t) ∧
    (∃ u, step { offering 0x3000#16 running with crc := 0xFF#8, responses := [] } = .next u) ∧
    (∃ t t', step (offering 0x20AA#16 running) = .next t ∧ step (offering 0x20AA#16 { running with sum := 0 }) = .next t') ∧
    ∃ t, exec (.ovsRun 7#8) completed = .next t := ⟨⟨_, rfl⟩, ⟨_, rfl⟩, ⟨_, _, rfl, rfl⟩, _, rfl⟩

theorem hyp_AcceptanceAndDeliveryCommute :
    running.busy = true ∧ ({ running with words := [0x3000#16], samples := [72#10] } : State).words = 0x3000#16 :: [] ∧
    ({ running with words := [0x3000#16], samples := [72#10] } : State).samples = 72#10 :: [] ∧
    cmdReady false running.busy 0x3000#16 = true := by decide

/-- A register set and pins at which a command is accepted and the sixteenth sample delivered. -/
def edgeOfBoth : PinsIn := { rst := false, cmdValid := true, cmd := 0x2001#16, sValid := true, sData := 72#10 }

theorem hyp_SimultaneousEventsResolveAsStated :
    ({ edgeOfBoth with rst := true } : PinsIn).rst = true ∧
    (edgeOfBoth.rst = false ∧ pinAccepted running.regs edgeOfBoth = true ∧ pinDelivered running.regs edgeOfBoth = true) ∧
    (({ running with words := [0x9000#16], samples := [72#10], turns := [.both] } : State).busy = true ∧
      isOvsWord 0x9000#16 = true ∧
      ({ running with words := [0x9000#16], samples := [72#10], turns := [.both] } : State).turns = .both :: [] ∧
      ({ running with words := [0x9000#16], samples := [72#10], turns := [.both] } : State).words = 0x9000#16 :: [] ∧
      ({ running with words := [0x9000#16], samples := [72#10], turns := [.both] } : State).samples = 72#10 :: []) ∧
    (running.busy = true ∧ 8 ≤ (8#8).toNat) := by decide

theorem hyp_HeldWordStaysOnThePortUntilItIsAccepted :
    let r : Regs := { crc := 0x00#8, sum := 0#14, cnt := 15#5, ch := 0#3, busy := true }
    let p : PinsIn := { rst := false, cmdValid := true, cmd := 0x9000#16, sValid := true, sData := 5#10 }
    pinHeld r p = true ∧ p.rst = false ∧ pinEdges r [p, { p with cmd := 0x3000#16 }] = none ∧
      pinEdges r [p, { p with cmdValid := false }] = none ∧ pinEdges r [p, p] ≠ none ∧
      pinAccepted (pinEdge r p) p = true ∧ pinHeld (pinEdge r { p with sValid := false }) p = true := by decide

theorem hyp_CmdReadyFollowsItsRule :
    instrOf 0x1000#16 = some .crcClr ∧ instrOf 0x20FF#16 = some (.crcUpd 0xFF#8) ∧ instrOf 0x3000#16 = some .crcGet ∧
    instrOf 0xFFFF#16 = none := by decide

theorem hyp_SamplePortFollowsItsRule :
    completed.regs.busy = false ∧ running.regs.busy = true ∧ edgeOfBoth.rst = false ∧
    ∀ p ∈ [{ edgeOfBoth with sValid := false }], p.rst = false ∧ p.sValid = false := by decide

theorem hyp_ResponsePortFollowsItsRule :
    (instrOf ({ edgeOfBoth with cmd := 0x3000#16 } : PinsIn).cmd = some .crcGet ∧
      pinAccepted running.regs { edgeOfBoth with cmd := 0x3000#16 } = true) ∧
    (instrOf ({ edgeOfBoth with cmd := 0x9000#16 } : PinsIn).cmd = some .ovsGet ∧
      pinAccepted completed.regs { edgeOfBoth with cmd := 0x9000#16 } = true) ∧
    pinAccepted running.regs { edgeOfBoth with cmd := 0x9000#16 } = false ∧
    (instrOf edgeOfBoth.cmd ≠ some .crcGet ∧ instrOf edgeOfBoth.cmd ≠ some .ovsGet) := by decide

theorem hyp_PinsRealiseTheStepRelation :
    ∀ t : Turn, ({ running with turns := [t] } : State).turns = t :: [] := fun _ => rfl

theorem hyp_Crc8SequenceRespondsWithTheChecksum :
    let ts : List Turn := [.host, .source, .both, .host]
    let s : State := { running with words := crc8Words [0x40#8] ++ [], turns := ts ++ [] }
    s.words = crc8Words [0x40#8] ++ [] ∧ s.turns = ts ++ [] ∧ (∀ t ∈ ts, t.isReset = false) ∧
    ts.countP Turn.hostActs = [0x40#8].length + 2 := by decide

theorem hyp_WithoutClearTheChecksumContinues :
    let ts : List Turn := [.host, .source, .host]
    let s : State := { running with words := [0x2041#16, 0x3000#16], turns := ts ++ [] }
    s.words = ([0x41#8].map Instr.crcUpd ++ [Instr.crcGet]).map encode ++ [] ∧ s.turns = ts ++ [] ∧
    (∀ t ∈ ts, t.isReset = false) ∧ ts.countP Turn.hostActs = [0x41#8].length + 1 := by decide

theorem hyp_ReadOvsSequenceRespondsWithTheReading :
    let mid : List Turn := .host :: List.replicate 15 .source
    let s : State :=
      { completed with
        words := readOvsWords 7#8 ++ [], samples := List.replicate 16 1023#10 ++ [],
        turns := .host :: mid ++ .both :: .host :: [] }
    s.busy = false ∧ (7#8).toNat < 8 ∧ s.words = readOvsWords 7#8 ++ [] ∧
    s.samples = List.replicate 16 1023#10 ++ [] ∧ (List.replicate 16 1023#10 : List Sample).length = 16 ∧
    s.turns = .host :: mid ++ .both :: .host :: [] ∧ (∀ t ∈ mid, t.isReset = false) ∧
    mid.countP Turn.sourceActs = 15 ∧ Turn.both.sourceActs = true := by decide

theorem hyp_ReadOvsIsUnmovedByAnEarlierBatchAndByCrcWords :
    let pre : List Turn := [.host, .both]
    let mid : List Turn := List.replicate 15 .both
    let old : List Sample := [1#10]
    let vs : List Sample := List.replicate 16 2#10
    let cs : List Word := [0x3000#16, 0x0000#16]
    let s : State :=
      { State.reset with
        busy := true, cnt := 15#5, sum := 9#14, words := encode (.ovsRun 3#8) :: cs ++ encode .ovsGet :: [],
        samples := old ++ vs ++ [], turns := pre ++ .host :: mid ++ .source :: .host :: [] }
    Inv s ∧ (3#8).toNat < 8 ∧ (∀ w ∈ cs, isOvsWord w = false) ∧
      old.length = (if s.busy = true then 16 - s.cnt.toNat else 0) ∧ vs.length = 16 ∧
      (∀ t ∈ pre ++ mid, t.isReset = false) ∧ pre.countP Turn.sourceActs = old.length ∧
      (∀ t ∈ pre.getLast?, t.sourceActs = true) ∧ mid.countP Turn.sourceActs = 15 ∧
      cs.length ≤ mid.countP Turn.hostActs ∧ Turn.source.sourceActs = true := by
  intro pre mid old vs cs s
  have hcs : ∀ w ∈ cs, isOvsWord w = false := by
    intro w h
    simp only [cs, List.mem_cons, List.not_mem_nil, or_false] at h
    rcases h with rfl | rfl <;> decide
  have hpm : ∀ t ∈ pre ++ mid, t.isReset = false := by simp [pre, mid, Turn.isReset]
  have hinv : Inv s := by
    constructor
    · exact fun _ => (by decide : (15 : Nat) ≤ 15)
    · exact fun h => nomatch h
    · exact (by decide : (9 : Nat) ≤ 1023 * 15)
    · exact (by decide : (15 : Nat) ≤ 16)
  have hcount : cs.length ≤ mid.countP Turn.hostActs := (by decide : (2 : Nat) ≤ 15)
  have hlast : ∀ t ∈ pre.getLast?, t.sourceActs = true := by simp [pre, Turn.sourceActs]
  exact ⟨hinv, by decide, hcs, rfl, rfl, hpm, rfl, hlast, rfl, hcount, rfl⟩

theorem test_runEnded_when_reset_gives_up_the_word :
    (after (step (State.launch [0x3000#16] [] [.reset false]))).map (fun s => (s.runEnded, s.responses)) =
      some (true, []) := by decide

theorem hyp_ReadOvsOnAnInvalidChannelRespondsZero :
    let s : State := { completed with words := readOvsWords 8#8 ++ [], turns := .host :: .host :: [] }
    s.busy = false ∧ 8 ≤ (8#8).toNat ∧ s.words = readOvsWords 8#8 ++ [] ∧ s.turns = .host :: .host :: [] := by decide

theorem hyp_StuckSourceHoldsAnOvsWordForEver :
    let s : State := { running with words := [0x9000#16], turns := [.host, .source, .both] }
    s.busy = true ∧ s.samples = [] ∧ s.words = 0x9000#16 :: [] ∧ isOvsWord 0x9000#16 = true ∧
    ∀ t ∈ s.turns, t.isReset = false := by decide

theorem hyp_BatchCompletesOnceItsSamplesAreDelivered :
    let s : State := { running with samples := [1023#10] ++ [], turns := List.replicate 1 .source ++ [] }
    Inv s ∧ s.busy = true ∧ s.samples = [1023#10] ++ [] ∧ s.cnt.toNat + [1023#10].length = 16 ∧
    s.turns = List.replicate [1023#10].length .source ++ [] :=
  ⟨⟨by decide, by decide, by decide, by decide⟩, rfl, rfl, by decide, rfl⟩

end Sys2Proof.Tests
end

section
/-! The registers of the reset state (spec/10_state.md R32). -/

namespace Sys2Proof.Machine

@[simp] theorem State.reset_crc : State.reset.crc = 0x00#8 := rfl
@[simp] theorem State.reset_sum : State.reset.sum = 0#14 := rfl
@[simp] theorem State.reset_cnt : State.reset.cnt = 0#5 := rfl
@[simp] theorem State.reset_ch : State.reset.ch = 0#3 := rfl
@[simp] theorem State.reset_busy : State.reset.busy = false := rfl

/-- Settles O35: one register of R32's table at a time. -/
theorem resetStateHoldsTheSpecsValues : Obligations.ResetStateHoldsTheSpecsValues :=
  ⟨State.reset_crc, State.reset_sum, State.reset_cnt, State.reset_ch, State.reset_busy⟩

end Sys2Proof.Machine
end

section
/-! The decoder and the rows of the opcode table, both read on the three fields of a word (spec/30_encoding.md R60, R64,
R65): `decode` against `fieldsFor`, and `OpRow.selects` against `instrOf`. -/

namespace Sys2Proof

theorem fieldsOf_injective : Function.Injective fieldsOf :=
  Function.LeftInverse.injective assemble_fieldsOf

/-- The decoder's chain answers an operation exactly on the fields of that operation's own word. -/
theorem decodeFields_legal_iff (f : CmdFields) (i : Instr) : decodeFields f = .legal i ↔ f = fieldsFor i := by
  constructor
  · intro h
    obtain ⟨op, zero, arg⟩ := f
    unfold decodeFields at h
    split_ifs at h <;> grind [decodePlain_legal_iff, decodeByte_legal_iff, fieldsFor]
  · rintro rfl
    cases i <;> rfl

theorem instrOf_eq_some_iff_fields (w : Word) (i : Instr) : instrOf w = some i ↔ fieldsOf w = fieldsFor i :=
  (instrOf_eq_some_iff w i).trans (decodeFields_legal_iff (fieldsOf w) i)

/-- A row that masks no bit off selects the one word of its operation. -/
theorem OpRow.selects_iff_of_fullMask {r : OpRow} {i : Instr} (hmask : r.mask = 0xFFFF#16)
    (hvalue : fieldsOf r.value = fieldsFor i) (w : Word) : r.selects w = true ↔ instrOf w = some i := by
  have hw : w &&& 0xFFFF#16 = w := BitVec.and_allOnes
  rw [instrOf_eq_some_iff_fields, ← hvalue, fieldsOf_injective.eq_iff, OpRow.selects, beq_iff_eq, hmask, hw]

theorem fieldsOf_and_argMask (w : Word) : fieldsOf (w &&& 0xFF00#16) = { fieldsOf w with arg := 0#8 } := by
  have hop : (0xFF00#16).extractLsb' 12 4 = BitVec.allOnes 4 := by decide
  have hzero : (0xFF00#16).extractLsb' 8 4 = BitVec.allOnes 4 := by decide
  have harg : (0xFF00#16).extractLsb' 0 8 = 0#8 := by decide
  simp only [fieldsOf, BitVec.extractLsb'_and, hop, hzero, harg, BitVec.and_allOnes, BitVec.and_zero]

/-- A row that masks off `cmd[7:0]` selects the words of its operation, whatever their operand. -/
theorem OpRow.selects_iff_of_argMask {r : OpRow} {mk : Byte → Instr} (hmask : r.mask = 0xFF00#16)
    (hvalue : fieldsOf r.value = fieldsFor (mk 0#8))
    (hmk : ∀ b, fieldsFor (mk b) = { fieldsFor (mk 0#8) with arg := b }) (w : Word) :
    r.selects w = true ↔ ∃ b, instrOf w = some (mk b) := by
  rw [OpRow.selects, beq_iff_eq, hmask, ← fieldsOf_injective.eq_iff, fieldsOf_and_argMask, hvalue]
  simp only [instrOf_eq_some_iff_fields]
  constructor
  · intro h
    refine ⟨(fieldsOf w).arg, ?_⟩
    rw [hmk, ← h]
  · rintro ⟨b, hb⟩
    rw [hb, hmk b, hmk 0#8]

theorem rowCrcGet_selects_iff (w : Word) : rowCrcGet.selects w = true ↔ instrOf w = some .crcGet :=
  OpRow.selects_iff_of_fullMask rfl (by decide) w

theorem rowOvsGet_selects_iff (w : Word) : rowOvsGet.selects w = true ↔ instrOf w = some .ovsGet :=
  OpRow.selects_iff_of_fullMask rfl (by decide) w

theorem rowOvsRun_selects_iff (w : Word) : rowOvsRun.selects w = true ↔ ∃ ch, instrOf w = some (.ovsRun ch) :=
  OpRow.selects_iff_of_argMask rfl (by decide) (fun _ => rfl) w

end Sys2Proof
end

section
/-! The ports (spec/20_memory.md R44 to R46): when `cmd_ready` and `rsp_valid` are high, what stands on `rsp`, and what
an edge does with the sample pins. -/

namespace Sys2Proof.Machine

theorem cmdReady_iff (rst busy : Bool) (w : Word) : cmdReady rst busy w = true ↔
    rst = false ∧ ¬(busy = true ∧ (instrOf w = some .ovsGet ∨ ∃ ch, instrOf w = some (.ovsRun ch))) := by
  rw [← rowOvsGet_selects_iff, ← rowOvsRun_selects_iff]
  cases busy <;> simp [cmdReady, and_comm]

/-- While a batch runs an OVS_RUN on the pins is held, so it starts nothing. -/
theorem pinRun_running {r : Regs} (hb : r.busy = true) (p : PinsIn) : pinRun r p = false := by
  cases h : rowOvsRun.selects p.cmd <;> simp [pinRun, pinAccepted, cmdReady, hb, h]

theorem pinDelivered_iff (r : Regs) (p : PinsIn) :
    pinDelivered r p = true ↔ p.rst = false ∧ r.busy = true ∧ p.sValid = true := by
  simp [pinDelivered, and_assoc]

theorem pinDelivered_idle {r : Regs} (hb : r.busy = false) (p : PinsIn) : pinDelivered r p = false := by
  simp [pinDelivered, hb]

/-- R45: while `s_req = 0` there is no delivery with either setting of the source's pins. -/
theorem pinEdge_idle_ignores_source {r : Regs} (hb : r.busy = false) (p : PinsIn) (v : Bool) (d : Sample) :
    pinEdge r { p with sValid := v, sData := d } = pinEdge r p := by
  have hrun : pinRun r { p with sValid := v, sData := d } = pinRun r p := rfl
  have hsum : sumNext r { p with sValid := v, sData := d } = sumNext r p := by
    simp [sumNext, hrun, pinDelivered_idle hb]
  have hcnt : cntNext r { p with sValid := v, sData := d } = cntNext r p := by
    simp [cntNext, hrun, pinDelivered_idle hb, pinRunValid]
  have hbusy : busyNext r { p with sValid := v, sData := d } = busyNext r p := by
    simp [busyNext, hrun, pinDelivered_idle hb, pinRunValid]
  rw [pinEdge, hsum, hcnt, hbusy]
  rfl

/-- R26: a batch keeps its channel. -/
theorem pinEdge_ch_running {r : Regs} {p : PinsIn} (hb : r.busy = true) (hrst : p.rst = false) :
    (pinEdge r p).ch = r.ch := by
  simp [pinEdge, chNext, hrst, pinRun_running hb]

/-- R45: an edge without reset and without `s_valid` leaves the batch waiting. -/
theorem pinEdge_busy_of_no_sample {r : Regs} {p : PinsIn} (hb : r.busy = true) (hrst : p.rst = false)
    (hv : p.sValid = false) : (pinEdge r p).busy = true := by
  have hdel : pinDelivered r p = false := by simp [pinDelivered, hv]
  simp [pinEdge, busyNext, hrst, pinRun_running hb, hdel, hb]

theorem foldl_pinEdge_busy_of_no_sample (ps : List PinsIn) (r : Regs) (hb : r.busy = true)
    (hps : ∀ p ∈ ps, p.rst = false ∧ p.sValid = false) : (ps.foldl pinEdge r).busy = true := by
  induction ps generalizing r with
  | nil => exact hb
  | cons p ps ih =>
    obtain ⟨⟨hrst, hv⟩, hrest⟩ := List.forall_mem_cons.1 hps
    exact ih (pinEdge r p) (pinEdge_busy_of_no_sample hb hrst hv) hrest

theorem pinRspValid_iff (r : Regs) (p : PinsIn) : pinRspValid r p = true ↔
    pinAccepted r p = true ∧ (instrOf p.cmd = some .crcGet ∨ instrOf p.cmd = some .ovsGet) := by
  rw [← rowCrcGet_selects_iff, ← rowOvsGet_selects_iff]
  simp [pinRspValid]

theorem crcResponse_eq_append (crc : Byte) : crcResponse crc = 0x00#8 ++ crc :=
  BitVec.setWidth_eq_append (by decide)

theorem ovsResponse_eq_append (sum : SumWord) : ovsResponse sum = 0#4 ++ sum.extractLsb' 2 12 :=
  BitVec.setWidth_eq_append (by decide)

theorem pinRsp_crcGet {r : Regs} {p : PinsIn} (hv : pinRspValid r p = true) (hi : instrOf p.cmd = some .crcGet) :
    pinRsp r p = crcResponse r.crc := by
  rw [pinRsp, if_pos hv, if_pos ((rowCrcGet_selects_iff p.cmd).2 hi), crcResponse_eq_append]

theorem pinRsp_ovsGet {r : Regs} {p : PinsIn} (hv : pinRspValid r p = true) (hi : instrOf p.cmd = some .ovsGet) :
    pinRsp r p = ovsResponse r.sum := by
  have hcrc : ¬ rowCrcGet.selects p.cmd = true := by simp [rowCrcGet_selects_iff, hi]
  rw [pinRsp, if_pos hv, if_neg hcrc, ovsResponse_eq_append]

theorem pinRsp_none {r : Regs} {p : PinsIn} (hv : pinRspValid r p = false) : pinRsp r p = 0x0000#16 := by
  simp [pinRsp, hv]

/-- Settles O46: the outputs come straight from the registers, and the rest is one fact about an edge per sentence of
R45, the unbounded wait by induction over the edges. -/
theorem samplePortFollowsItsRule : Obligations.SamplePortFollowsItsRule :=
  ⟨fun _ _ => ⟨rfl, rfl⟩, pinDelivered_iff, fun _ p v d hb => pinEdge_idle_ignores_source hb p v d,
    fun _ _ hb hrst => pinEdge_ch_running hb hrst, foldl_pinEdge_busy_of_no_sample⟩

/-- Settles O45: by the rows' agreement with the decoder; every other word is ready since it decodes to no OVS
operation. -/
theorem cmdReadyFollowsItsRule : Obligations.CmdReadyFollowsItsRule := by
  refine ⟨cmdReady_iff, fun busy w hw => (cmdReady_iff false busy w).2 ⟨rfl, ?_⟩⟩
  rintro ⟨-, hget | ⟨ch, hrun⟩⟩
  · simp [hget] at hw
  · simp [hrun] at hw

/-- Settles O47: `rsp_valid` is high exactly on an accepted GET, and `rsp` follows it. -/
theorem responsePortFollowsItsRule : Obligations.ResponsePortFollowsItsRule := by
  refine fun r p => ⟨fun hi hacc => ?_, fun hi hacc => ?_, fun hnone => ?_⟩
  · have hv : pinRspValid r p = true := (pinRspValid_iff r p).2 ⟨hacc, .inl hi⟩
    exact ⟨hv, pinRsp_crcGet hv hi⟩
  · have hv : pinRspValid r p = true := (pinRspValid_iff r p).2 ⟨hacc, .inr hi⟩
    exact ⟨hv, pinRsp_ovsGet hv hi⟩
  · have hv : pinRspValid r p = false := by
      rw [← Bool.not_eq_true, pinRspValid_iff]
      rintro ⟨hacc, hget⟩
      obtain hacc' | ⟨hcrc, hovs⟩ := hnone
      · simp [hacc] at hacc'
      · exact hget.elim hcrc hovs
    exact ⟨hv, pinRsp_none hv⟩

end Sys2Proof.Machine
end

section
/-! Decoding read against encoding (spec/30_encoding.md R64, R65, R67): a word is an operation's exactly when it is that
operation's encoded word, so the chain of comparisons, the count of the legal words and the reserved fields are facts
about `encode` and `fieldsFor`. -/

namespace Sys2Proof

theorem instrOf_eq_some_iff_encode (w : Word) (i : Instr) : instrOf w = some i ↔ w = encode i := by
  rw [instrOf_eq_some_iff_fields]
  constructor
  · intro h
    rw [encode, ← h, assemble_fieldsOf]
  · rintro rfl
    exact fieldsOf_assemble (fieldsFor i)

theorem instrOf_encode (i : Instr) : instrOf (encode i) = some i := (instrOf_eq_some_iff_encode _ i).2 rfl

theorem encode_injective : Function.Injective encode := fun i j h =>
  Option.some.inj ((instrOf_encode i).symm.trans ((congrArg instrOf h).trans (instrOf_encode j)))

theorem decode_legal_iff_encode (w : Word) (i : Instr) : decode w = .legal i ↔ w = encode i :=
  (instrOf_eq_some_iff w i).symm.trans (instrOf_eq_some_iff_encode w i)

theorem isLegal_iff_encode (w : Word) : isLegal w = true ↔ ∃ i, encode i = w :=
  (isLegal_iff w).trans (exists_congr fun i => (decode_legal_iff_encode w i).trans eq_comm)

theorem decode_illegal_of_not_isLegal {w : Word} (h : isLegal w = false) : ∃ why, decode w = .illegal why := by
  cases hd : decode w with
  | illegal why => exact ⟨why, rfl⟩
  | legal i => simp [(isLegal_iff w).2 ⟨i, hd⟩] at h

theorem isOvsWord_of_legal {w : Word} {i : Instr} (h : decode w = .legal i) : isOvsWord w = i.isOvs := by
  simp [isOvsWord, (instrOf_eq_some_iff w i).2 h]

theorem isOvsWord_of_illegal {w : Word} {why : Illegal} (h : decode w = .illegal why) : isOvsWord w = false := by
  simp [isOvsWord, instrOf, h]

/-! ### The words of the two operations with an operand -/

theorem word_eq_append_iff (w : Word) (hi lo : Byte) :
    w = hi ++ lo ↔ w.extractLsb' 8 8 = hi ∧ w.extractLsb' 0 8 = lo := by
  constructor
  · rintro rfl
    exact ⟨BitVec.extractLsb'_append_eq_left, BitVec.extractLsb'_append_eq_right⟩
  · rintro ⟨rfl, rfl⟩
    exact (BitVec.extractLsb'_append_extractLsb' (w := 8) (len := 8)).symm

theorem append_ofNat (hi : Byte) {n : Nat} (hn : n < 256) :
    hi ++ BitVec.ofNat 8 n = BitVec.ofNat 16 (hi.toNat * 256 + n) := by
  have hhi := hi.isLt
  apply BitVec.eq_of_toNat_eq
  rw [BitVec.toNat_append, ← Nat.shiftLeft_add_eq_or_of_lt (BitVec.isLt _), Nat.shiftLeft_eq, BitVec.toNat_ofNat,
    BitVec.toNat_ofNat]
  omega

theorem encode_crcUpd (b : Byte) : encode (.crcUpd b) = 0x20#8 ++ b :=
  congrArg (· ++ b) (by decide : opCrcUpd ++ 0#4 = 0x20#8)

theorem encode_ovsRun (ch : Byte) : encode (.ovsRun ch) = 0x80#8 ++ ch :=
  congrArg (· ++ ch) (by decide : opOvsRun ++ 0#4 = 0x80#8)

theorem instrOf_eq_crcUpd_iff (w : Word) (b : Byte) :
    instrOf w = some (.crcUpd b) ↔ w.extractLsb' 8 8 = 0x20#8 ∧ w.extractLsb' 0 8 = b := by
  rw [instrOf_eq_some_iff_encode, encode_crcUpd, word_eq_append_iff]

theorem instrOf_eq_ovsRun_iff (w : Word) (ch : Byte) :
    instrOf w = some (.ovsRun ch) ↔ w.extractLsb' 8 8 = 0x80#8 ∧ w.extractLsb' 0 8 = ch := by
  rw [instrOf_eq_some_iff_encode, encode_ovsRun, word_eq_append_iff]

/-- R65: a word that passes a comparison of the chain is the operation of that line, and one that passes none is no
operation. -/
theorem instrOf_eq_chain (w : Word) : instrOf w =
    if w = 0x1000#16 then some .crcClr
    else if w.extractLsb' 8 8 = 0x20#8 then some (.crcUpd (w.extractLsb' 0 8))
    else if w = 0x3000#16 then some .crcGet
    else if w.extractLsb' 8 8 = 0x80#8 then some (.ovsRun (w.extractLsb' 0 8))
    else if w = 0x9000#16 then some .ovsGet
    else none := by
  split_ifs with hclr hupd hget hrun hovs
  · exact (instrOf_eq_some_iff_encode w .crcClr).2 hclr
  · exact (instrOf_eq_crcUpd_iff w _).2 ⟨hupd, rfl⟩
  · exact (instrOf_eq_some_iff_encode w .crcGet).2 hget
  · exact (instrOf_eq_ovsRun_iff w _).2 ⟨hrun, rfl⟩
  · exact (instrOf_eq_some_iff_encode w .ovsGet).2 hovs
  · cases h : instrOf w with
    | none => rfl
    | some i =>
      cases i with
      | crcClr => exact absurd ((instrOf_eq_some_iff_encode w _).1 h) hclr
      | crcUpd b => exact absurd ((instrOf_eq_crcUpd_iff w b).1 h).1 hupd
      | crcGet => exact absurd ((instrOf_eq_some_iff_encode w _).1 h) hget
      | ovsRun ch => exact absurd ((instrOf_eq_ovsRun_iff w ch).1 h).1 hrun
      | ovsGet => exact absurd ((instrOf_eq_some_iff_encode w _).1 h) hovs

/-! ### The legal words are the words of all instructions, listed in R65's order -/

/-- The 256 operand bytes in order. -/
def everyByte : List Byte := (List.range 256).map (BitVec.ofNat 8)

/-- The instructions in the order in which R65 counts their words. -/
def everyInstr : List Instr :=
  [.crcClr] ++ everyByte.map .crcUpd ++ [.crcGet] ++ everyByte.map .ovsRun ++ [.ovsGet]

theorem mem_everyByte (b : Byte) : b ∈ everyByte :=
  List.mem_map.2 ⟨b.toNat, List.mem_range.2 b.isLt, BitVec.ofNat_toNat 8 b⟩

theorem everyByte_nodup : everyByte.Nodup := by
  refine List.nodup_range.map_on fun m hm n hn h => ?_
  rw [List.mem_range] at hm hn
  have htoNat := congrArg BitVec.toNat h
  rwa [BitVec.toNat_ofNat, BitVec.toNat_ofNat, Nat.mod_eq_of_lt hm, Nat.mod_eq_of_lt hn] at htoNat

theorem mem_everyInstr (i : Instr) : i ∈ everyInstr := by
  cases i <;> simp [everyInstr, mem_everyByte]

theorem everyInstr_nodup : everyInstr.Nodup := by
  have hupd : (everyByte.map Instr.crcUpd).Nodup := everyByte_nodup.map fun _ _ => Instr.crcUpd.inj
  have hrun : (everyByte.map Instr.ovsRun).Nodup := everyByte_nodup.map fun _ _ => Instr.ovsRun.inj
  simp [everyInstr, List.nodup_append, hupd, hrun, or_imp, forall_and]

/-- The words with high byte `hi`, as `legalWords` counts them, are those of the operation that `hi` stands for. -/
theorem map_ofNat_eq_map_encode {mk : Byte → Instr} {hi : Byte} (hmk : ∀ b, encode (mk b) = hi ++ b) :
    (List.range 256).map (fun n => BitVec.ofNat 16 (hi.toNat * 256 + n)) = (everyByte.map mk).map encode := by
  rw [everyByte, List.map_map, List.map_map]
  refine List.map_congr_left fun n hn => ?_
  rw [Function.comp_apply, Function.comp_apply, hmk, append_ofNat hi (List.mem_range.1 hn)]

theorem legalWords_eq_map_encode : legalWords = everyInstr.map encode := by
  simp only [everyInstr, List.map_append, ← map_ofNat_eq_map_encode encode_crcUpd,
    ← map_ofNat_eq_map_encode encode_ovsRun]
  rfl

theorem isLegal_iff_mem_legalWords (w : Word) : isLegal w = true ↔ w ∈ legalWords := by
  simp only [isLegal_iff_encode, legalWords_eq_map_encode, List.mem_map, mem_everyInstr, true_and]

theorem legalWords_nodup : legalWords.Nodup :=
  legalWords_eq_map_encode ▸ everyInstr_nodup.map encode_injective

theorem legalWords_length : legalWords.length = 515 := by
  simp [legalWords]

/-- Settles O2: the chain by its own comparisons; the legal words as the encodings of all instructions, which are
distinct because `encode` is injective. -/
theorem decodeIsTheRulesChainOfComparisons : Obligations.DecodeIsTheRulesChainOfComparisons :=
  ⟨instrOf_eq_chain, isLegal_iff_mem_legalWords, legalWords_nodup, legalWords_length, by rw [legalWords_length]; rfl⟩

/-! ### The checks of R67 -/

theorem CmdFields.opKnown_iff (f : CmdFields) :
    f.opKnown = true ↔ f.op ∈ [opCrcClr, opCrcUpd, opCrcGet, opOvsRun, opOvsGet] := by
  simp [CmdFields.opKnown, opCrcClr, opCrcUpd, opCrcGet, opOvsRun, opOvsGet, or_assoc]

theorem CmdFields.takesOperand_iff (f : CmdFields) : f.takesOperand = true ↔ f.op ∈ [opCrcUpd, opOvsRun] := by
  simp [CmdFields.takesOperand, opCrcUpd, opOvsRun]

theorem CmdFields.wf_iff (f : CmdFields) :
    f.wf = true ↔ f.op ∈ [opCrcClr, opCrcUpd, opCrcGet, opOvsRun, opOvsGet] ∧ f.zero = 0#4 ∧
      (f.op ∈ [opCrcUpd, opOvsRun] ∨ f.arg = 0#8) := by
  rw [← CmdFields.opKnown_iff, ← CmdFields.takesOperand_iff]
  simp [CmdFields.wf, CmdFields.zeroOk, CmdFields.argOk, and_assoc]

/-- Fields pass the checks of R67 exactly when they are the fields of an operation's word. -/
theorem CmdFields.wf_iff_fieldsFor (f : CmdFields) : f.wf = true ↔ ∃ i, f = fieldsFor i := by
  constructor
  · obtain ⟨op, zero, arg⟩ := f
    rw [CmdFields.wf_iff]
    rintro ⟨hop, (rfl : zero = 0#4), (harg : op ∈ [opCrcUpd, opOvsRun] ∨ arg = 0#8)⟩
    simp only [List.mem_cons, List.not_mem_nil, or_false] at hop
    obtain rfl | rfl | rfl | rfl | rfl := hop
    · exact ⟨.crcClr, congrArg _ (harg.resolve_left (by decide))⟩
    · exact ⟨.crcUpd arg, rfl⟩
    · exact ⟨.crcGet, congrArg _ (harg.resolve_left (by decide))⟩
    · exact ⟨.ovsRun arg, rfl⟩
    · exact ⟨.ovsGet, congrArg _ (harg.resolve_left (by decide))⟩
  · rintro ⟨i, rfl⟩
    cases i <;> rfl

theorem isLegal_eq_wf (w : Word) : isLegal w = (fieldsOf w).wf := by
  rw [Bool.eq_iff_iff, isLegal_iff, CmdFields.wf_iff_fieldsFor]
  exact exists_congr fun i => decodeFields_legal_iff (fieldsOf w) i

theorem isLegal_false_of_zero_field {w : Word} (h : w.extractLsb' 8 4 ≠ 0#4) : isLegal w = false := by
  rw [isLegal_eq_wf, ← Bool.not_eq_true, CmdFields.wf_iff]
  exact fun ⟨_, hzero, _⟩ => h hzero

theorem isLegal_false_of_arg_field {w : Word} (hop : w.extractLsb' 12 4 ∈ [0x1#4, 0x3#4, 0x9#4])
    (harg : w.extractLsb' 0 8 ≠ 0#8) : isLegal w = false := by
  have hplain : ∀ op ∈ [0x1#4, 0x3#4, 0x9#4], op ∉ [opCrcUpd, opOvsRun] := by decide
  rw [isLegal_eq_wf, ← Bool.not_eq_true, CmdFields.wf_iff]
  exact fun ⟨_, _, hargOk⟩ => hargOk.elim (hplain _ hop) harg

theorem isLegal_false_of_reserved_op {w : Word} (hop : w.extractLsb' 12 4 ∈
    [0x0#4, 0x4#4, 0x5#4, 0x6#4, 0x7#4, 0xA#4, 0xB#4, 0xC#4, 0xD#4, 0xE#4, 0xF#4]) : isLegal w = false := by
  have hreserved : ∀ op ∈ [0x0#4, 0x4#4, 0x5#4, 0x6#4, 0x7#4, 0xA#4, 0xB#4, 0xC#4, 0xD#4, 0xE#4, 0xF#4],
      op ∉ [opCrcClr, opCrcUpd, opCrcGet, opOvsRun, opOvsGet] := by decide
  rw [isLegal_eq_wf, ← Bool.not_eq_true, CmdFields.wf_iff]
  exact fun ⟨hknown, _⟩ => hreserved _ hop hknown

/-- Settles O5: each requirement is a check of `CmdFields.wf`, and fields that pass them all are an operation's. -/
theorem reservedFieldsMakeAWordIllegal : Obligations.ReservedFieldsMakeAWordIllegal :=
  ⟨fun _ => isLegal_false_of_zero_field, fun _ => isLegal_false_of_arg_field, fun _ => isLegal_false_of_reserved_op,
    isLegal_eq_wf⟩

/-! ### The rows of the opcode table (R64) -/

theorem rowCrcClr_selects_iff (w : Word) : rowCrcClr.selects w = true ↔ instrOf w = some .crcClr :=
  OpRow.selects_iff_of_fullMask rfl (by decide) w

theorem rowCrcUpd_selects_iff (w : Word) : rowCrcUpd.selects w = true ↔ ∃ b, instrOf w = some (.crcUpd b) :=
  OpRow.selects_iff_of_argMask rfl (by decide) (fun _ => rfl) w

theorem rowOf_selects_of_instrOf {w : Word} {i : Instr} (h : instrOf w = some i) : (rowOf i).selects w = true := by
  cases i with
  | crcClr => exact (rowCrcClr_selects_iff w).2 h
  | crcUpd b => exact (rowCrcUpd_selects_iff w).2 ⟨b, h⟩
  | crcGet => exact (rowCrcGet_selects_iff w).2 h
  | ovsRun ch => exact (rowOvsRun_selects_iff w).2 ⟨ch, h⟩
  | ovsGet => exact (rowOvsGet_selects_iff w).2 h

/-- A word that selects a row of the table decodes to an operation of that row. -/
theorem instrOf_of_selects {w : Word} {r : OpRow} (hr : r ∈ opTable) (h : r.selects w = true) :
    ∃ i, instrOf w = some i ∧ rowOf i = r := by
  simp only [opTable, List.mem_cons, List.not_mem_nil, or_false] at hr
  obtain rfl | rfl | rfl | rfl | rfl := hr
  · exact ⟨.crcClr, (rowCrcClr_selects_iff w).1 h, rfl⟩
  · exact ((rowCrcUpd_selects_iff w).1 h).imp' Instr.crcUpd fun _ hb => ⟨hb, rfl⟩
  · exact ⟨.crcGet, (rowCrcGet_selects_iff w).1 h, rfl⟩
  · exact ((rowOvsRun_selects_iff w).1 h).imp' Instr.ovsRun fun _ hch => ⟨hch, rfl⟩
  · exact ⟨.ovsGet, (rowOvsGet_selects_iff w).1 h, rfl⟩

theorem OpRow.selects_iff_decode {r : OpRow} (hr : r ∈ opTable) (w : Word) :
    r.selects w = true ↔ ∃ i, decode w = .legal i ∧ rowOf i = r := by
  simp only [← instrOf_eq_some_iff]
  exact ⟨instrOf_of_selects hr, fun ⟨_, hi, hrow⟩ => hrow ▸ rowOf_selects_of_instrOf hi⟩

theorem OpRow.eq_of_selects {r r' : OpRow} (hr : r ∈ opTable) (hr' : r' ∈ opTable) {w : Word}
    (h : r.selects w = true) (h' : r'.selects w = true) : r = r' := by
  obtain ⟨i, hi, rfl⟩ := instrOf_of_selects hr h
  obtain ⟨j, hj, rfl⟩ := instrOf_of_selects hr' h'
  exact congrArg rowOf (Option.some.inj (hi.symm.trans hj))

theorem fieldsFor_op_msb (i : Instr) : (fieldsFor i).op.msb = i.isOvs := by
  cases i <;> (simp only [fieldsFor, Instr.isOvs]; decide)

/-- R64: `cmd[15]` tells the unit. -/
theorem getLsbD_fifteen_of_decode {w : Word} {i : Instr} (h : decode w = .legal i) : w.getLsbD 15 = i.isOvs := by
  have hmsb : (fieldsOf w).op.msb = w.getLsbD 15 := by
    rw [BitVec.msb_eq_getLsbD_last, fieldsOf, BitVec.getLsbD_extractLsb']
    rfl
  rw [← hmsb, (decodeFields_legal_iff (fieldsOf w) i).1 h, fieldsFor_op_msb]

end Sys2Proof
end

section
/-! The command step (spec/30_encoding.md R63, R64, R66, R68): what an operation answers, when a word is held, and what
ends a hold. -/

namespace Sys2Proof.Machine

/-- Settles O1: a row selects the words of its own operation, so two rows that select one word stand for one operation;
the responses by the cases of `exec`. -/
theorem opTableRowsSelectTheDecodedOperation : Obligations.OpTableRowsSelectTheDecodedOperation := by
  refine ⟨rfl, fun w _ hr => OpRow.selects_iff_decode hr w, fun _ _ hr _ hr' => OpRow.eq_of_selects hr hr', by decide,
    fun _ _ => getLsbD_fifteen_of_decode, fun i s t hb h => ?_⟩
  obtain ⟨rfl, rfl⟩ | ⟨b, rfl, rfl⟩ | ⟨rfl, rfl⟩ | ⟨ch, rfl, -, rfl⟩ | ⟨rfl, -, rfl⟩ | ⟨-, hrun, -⟩ := exec_cases h
  · exact (List.append_nil _).symm
  · exact (List.append_nil _).symm
  · rfl
  · exact (List.append_nil _).symm
  · rfl
  · simp [hb] at hrun

/-- Settles O6: both responses are a zero field above the register or the slice. -/
theorem responseWordsAreZeroExtended : Obligations.ResponseWordsAreZeroExtended := by
  constructor
  · intro crc
    rw [crcResponse_eq_append]
    exact ⟨BitVec.extractLsb'_append_eq_left, BitVec.extractLsb'_append_eq_right⟩
  · intro sum
    rw [ovsResponse_eq_append]
    exact ⟨BitVec.extractLsb'_append_eq_left, BitVec.extractLsb'_append_eq_right⟩

/-! ### One host turn -/

theorem step_host {s : State} {ts : List Turn} (ht : s.turns = .host :: ts) :
    step s = hostTurn { s with turns := ts } := step_turn ht

theorem accept_of_words {s : State} {w : Word} {ws : List Word} (hw : s.words = w :: ws) :
    s.accept = { s with words := ws } := by
  simp [State.accept, hw]

theorem exec_held {i : Instr} {s : State} (hb : s.busy = true) (hi : i.isOvs = true) : exec i s = .next s := by
  cases i with
  | crcClr => cases hi
  | crcUpd b => cases hi
  | crcGet => cases hi
  | ovsRun ch => rw [exec_ovsRun, if_pos hb]
  | ovsGet => rw [exec_ovsGet, if_pos hb]

theorem cntAfterRun_eq_ite (ch : Byte) : cntAfterRun ch = if ch.toNat < 8 then 0#5 else 16#5 := by
  split_ifs with h
  · exact cntAfterRun_valid h
  · exact cntAfterRun_invalid (Nat.le_of_not_lt h)

/-- R66: a running batch holds the word of an OVS operation. -/
theorem hostTurn_held {s : State} {w : Word} {ws : List Word} (hw : s.words = w :: ws) (hb : s.busy = true)
    (hovs : isOvsWord w = true) : hostTurn s = .next s := by
  obtain ⟨i, hd, hi⟩ := (isOvsWord_iff w).1 hovs
  rw [hostTurn_legal hw hd, exec_held hb hi]

theorem step_host_illegal {s : State} {w : Word} {ws : List Word} {ts : List Turn} (ht : s.turns = .host :: ts)
    (hw : s.words = w :: ws) (hill : isLegal w = false) : step s = .next { s with turns := ts, words := ws } := by
  obtain ⟨why, hd⟩ := decode_illegal_of_not_isLegal hill
  have hw' : ({ s with turns := ts } : State).words = w :: ws := hw
  rw [step_host ht, hostTurn_illegal hw' hd, accept_of_words hw']

/-- Settles O10: the step by the decoder's answer, `cmd_ready` because an illegal word is no OVS operation's. -/
theorem illegalWordIsAcceptedWithoutEffect : Obligations.IllegalWordIsAcceptedWithoutEffect := by
  refine ⟨fun _ _ _ _ => step_host_illegal, fun busy w hill => (cmdReady_iff false busy w).2 ⟨rfl, ?_⟩⟩
  have hnone : instrOf w = none := by simpa [isLegal] using hill
  simp [hnone]

/-! ### Every step answers a next state (R130) -/

theorem exec_next (i : Instr) (s : State) : ∃ t, exec i s = .next t := by
  cases i with
  | crcClr => exact ⟨_, exec_crcClr s⟩
  | crcUpd b => exact ⟨_, exec_crcUpd b s⟩
  | crcGet => exact ⟨_, exec_crcGet s⟩
  | ovsRun ch => exact ⟨_, exec_ovsRun ch s⟩
  | ovsGet => exact ⟨_, exec_ovsGet s⟩

theorem hostTurn_next (s : State) : ∃ t, hostTurn s = .next t := by
  cases hw : s.words with
  | nil => exact ⟨s, hostTurn_nil hw⟩
  | cons w ws =>
    cases hd : decode w with
    | legal i => exact hostTurn_legal hw hd ▸ exec_next i s
    | illegal why => exact ⟨_, hostTurn_illegal hw hd⟩

theorem bothTurn_next (s : State) : ∃ t, bothTurn s = .next t := by
  obtain ⟨t, ht⟩ := hostTurn_next s
  cases hb : s.busy with
  | false => exact ⟨t, (bothTurn_idle hb).trans ht⟩
  | true => exact ⟨_, bothTurn_running hb ht⟩

theorem step_next (s : State) : ∃ t, step s = .next t := by
  cases hs : s.turns with
  | nil => exact ⟨s, step_noTurn hs⟩
  | cons a ts =>
    rw [step_turn hs]
    cases a with
    | host => exact hostTurn_next _
    | source => exact ⟨_, rfl⟩
    | both => exact bothTurn_next _
    | reset keeps => exact ⟨_, rfl⟩

/-! ### What a step leaves alone -/

theorem exec_frame {i : Instr} {s t : State} (h : exec i s = .next t) : t.samples = s.samples ∧ t.turns = s.turns := by
  obtain ⟨-, rfl⟩ | ⟨b, -, rfl⟩ | ⟨-, rfl⟩ | ⟨ch, -, -, rfl⟩ | ⟨-, -, rfl⟩ | ⟨-, -, rfl⟩ := exec_cases h <;>
    exact ⟨rfl, rfl⟩

theorem hostTurn_frame {s t : State} (h : hostTurn s = .next t) : t.samples = s.samples ∧ t.turns = s.turns := by
  obtain ⟨-, rfl⟩ | ⟨w, ws, why, -, -, rfl⟩ | ⟨w, ws, i, -, -, hexec⟩ := hostTurn_cases h
  · exact ⟨rfl, rfl⟩
  · exact ⟨rfl, rfl⟩
  · exact exec_frame hexec

theorem sourceTurn_turns (s : State) : s.sourceTurn.turns = s.turns := by
  obtain ⟨-, h⟩ | ⟨v, vs, -, -, h⟩ := sourceTurn_cases s <;> rw [h]
  rfl

theorem step_turns {s t : State} (h : step s = .next t) : t.turns = s.turns.tail := by
  obtain ⟨ht, rfl⟩ | ⟨ts, ht, hhost⟩ | ⟨ts, ht, rfl⟩ | ⟨ts, ht, -, hhost⟩ | ⟨ts, u, ht, -, hhost, rfl⟩ |
    ⟨keeps, ts, ht, rfl⟩ := step_cases h <;> rw [ht]
  · rfl
  · exact (hostTurn_frame hhost).2
  · exact sourceTurn_turns _
  · exact (hostTurn_frame hhost).2
  · exact (sourceTurn_turns u).trans (hostTurn_frame hhost).2
  · exact State.hostAtReset_turns _ keeps

/-- A source with nothing to deliver gets nothing to deliver by a step. -/
theorem step_samples_nil {s t : State} (h : step s = .next t) (hs : s.samples = []) : t.samples = [] := by
  obtain ⟨-, rfl⟩ | ⟨ts, -, hhost⟩ | ⟨ts, -, rfl⟩ | ⟨ts, -, -, hhost⟩ | ⟨ts, u, -, -, hhost, rfl⟩ |
    ⟨keeps, ts, -, rfl⟩ := step_cases h
  · exact hs
  · exact (hostTurn_frame hhost).1.trans hs
  · rw [sourceTurn_empty (by exact hs)]
    exact hs
  · exact (hostTurn_frame hhost).1.trans hs
  · have hu : u.samples = [] := (hostTurn_frame hhost).1.trans hs
    rwa [sourceTurn_empty hu]
  · exact (State.hostAtReset_samples _ keeps).trans hs

/-! ### What ends a batch -/

/-- While a batch runs the host's turn leaves the batch alone: an OVS word is held, any other acts elsewhere. -/
theorem hostTurn_running {s t : State} (hb : s.busy = true) (h : hostTurn s = .next t) :
    t.busy = true ∧ t.cnt = s.cnt := by
  obtain ⟨-, rfl⟩ | ⟨w, ws, why, -, -, rfl⟩ | ⟨w, ws, i, -, -, hexec⟩ := hostTurn_cases h
  · exact ⟨hb, rfl⟩
  · exact ⟨hb, rfl⟩
  · obtain ⟨-, rfl⟩ | ⟨b, -, rfl⟩ | ⟨-, rfl⟩ | ⟨ch, -, hidle, -⟩ | ⟨-, hidle, -⟩ | ⟨-, -, rfl⟩ := exec_cases hexec
    · exact ⟨hb, rfl⟩
    · exact ⟨hb, rfl⟩
    · exact ⟨hb, rfl⟩
    · simp [hb] at hidle
    · simp [hb] at hidle
    · exact ⟨hb, rfl⟩

/-- R104: the source's turn clears `BUSY` exactly by the delivery that brings the count to 16. -/
theorem sourceTurn_busy_false_iff {s : State} (hb : s.busy = true) :
    s.sourceTurn.busy = false ↔ s.samples.head?.isSome = true ∧ s.cnt + 1#5 = 16#5 := by
  cases hs : s.samples with
  | nil => simp [sourceTurn_empty hs, hb]
  | cons v vs =>
    rw [sourceTurn_deliver hb hs, State.addSample_busy, busyAfterSample]
    simp [hb, cntAfterSample, Config.ovsCount, Config.ovsBits]

theorem presented_of_turn {s : State} {a : Turn} {ts : List Turn} (h : s.turns = a :: ts) :
    s.presented = if a.sourceActs = true then s.samples.head? else none := by
  simp [State.presented, h]

theorem presented_noTurn {s : State} (h : s.turns = []) : s.presented = none := by
  simp [State.presented, h]

theorem resetNow_of_turn {s : State} {a : Turn} {ts : List Turn} (h : s.turns = a :: ts) :
    s.resetNow = a.isReset := by
  simp [State.resetNow, h]

theorem resetNow_noTurn {s : State} (h : s.turns = []) : s.resetNow = false := by
  simp [State.resetNow, h]

/-- R66: a step clears `BUSY` exactly by reset or by the sixteenth delivery. -/
theorem step_busy_false_iff {s t : State} (h : step s = .next t) (hb : s.busy = true) :
    t.busy = false ↔ s.resetNow = true ∨ (s.presented.isSome = true ∧ s.cnt + 1#5 = 16#5) := by
  obtain ⟨ht, rfl⟩ | ⟨ts, ht, hhost⟩ | ⟨ts, ht, rfl⟩ | ⟨ts, -, hidle, -⟩ | ⟨ts, u, ht, -, hhost, rfl⟩ |
    ⟨keeps, ts, ht, rfl⟩ := step_cases h
  · simp [resetNow_noTurn ht, presented_noTurn ht, hb]
  · obtain ⟨htb, -⟩ := hostTurn_running (s := { s with turns := ts }) hb hhost
    simp [resetNow_of_turn ht, presented_of_turn ht, Turn.isReset, Turn.sourceActs, htb]
  · simp [resetNow_of_turn ht, presented_of_turn ht, Turn.isReset, Turn.sourceActs, sourceTurn_busy_false_iff, hb]
  · simp [hb] at hidle
  · obtain ⟨hub, hucnt⟩ := hostTurn_running (s := { s with turns := ts }) hb hhost
    obtain ⟨husamples, -⟩ := hostTurn_frame hhost
    simp [resetNow_of_turn ht, presented_of_turn ht, Turn.isReset, Turn.sourceActs, sourceTurn_busy_false_iff hub,
      hucnt, husamples]
  · simp [resetNow_of_turn ht, Turn.isReset]

theorem presented_of_no_samples {s : State} (hs : s.samples = []) : s.presented = none := by
  cases ht : s.turns with
  | nil => exact presented_noTurn ht
  | cons a ts => simp [presented_of_turn ht, hs]

theorem resetNow_of_no_reset {s : State} (hts : ∀ t ∈ s.turns, t.isReset = false) : s.resetNow = false := by
  cases ht : s.turns with
  | nil => exact resetNow_noTurn ht
  | cons a ts => exact (resetNow_of_turn ht).trans (hts a (ht ▸ List.mem_cons_self))

theorem step_busy_of_no_samples {s t : State} (h : step s = .next t) (hb : s.busy = true) (hs : s.samples = [])
    (hts : ∀ t ∈ s.turns, t.isReset = false) : t.busy = true := by
  rw [← Bool.not_eq_false, step_busy_false_iff h hb]
  simp [presented_of_no_samples hs, resetNow_of_no_reset hts]

/-- R66: a source that never delivers leaves the batch running for any number of steps without reset. -/
theorem runFor_busy_of_no_samples (n : Nat) (s : State) (hb : s.busy = true) (hs : s.samples = [])
    (hts : ∀ t ∈ s.turns, t.isReset = false) : ∃ u, runFor n s = .next u ∧ u.busy = true := by
  induction n generalizing s with
  | zero => exact ⟨s, runFor_zero s, hb⟩
  | succ n ih =>
    obtain ⟨t, ht⟩ := step_next s
    have htts : ∀ a ∈ t.turns, a.isReset = false := fun a ha => hts a (List.mem_of_mem_tail (step_turns ht ▸ ha))
    rw [runFor_succ ht]
    exact ih t (step_busy_of_no_samples ht hb hs hts) (step_samples_nil ht hs) htts

/-- Settles O9: the host's turn by whether the word is held and else by its operation; the end of a hold by what a step
can do to `BUSY`; the unlifted hold by induction on the number of steps. -/
theorem commandStepPerformsOrHolds : Obligations.CommandStepPerformsOrHolds := by
  refine ⟨fun s w ws ts ht hw => ?_, fun _ _ => step_busy_false_iff, runFor_busy_of_no_samples⟩
  have hw' : ({ s with turns := ts } : State).words = w :: ws := hw
  rw [step_host ht]
  split_ifs with hheld
  · exact hostTurn_held hw' hheld.1 hheld.2
  · cases hd : decode w with
    | illegal why => rw [hostTurn_illegal hw' hd, accept_of_words hw']
    | legal i =>
      rw [isOvsWord_of_legal hd] at hheld
      rw [hostTurn_legal hw' hd]
      cases i with
      | crcClr => rw [exec_crcClr, accept_of_words hw']
      | crcUpd b => rw [exec_crcUpd, accept_of_words hw']
      | crcGet => rw [exec_crcGet, accept_of_words hw']; rfl
      | ovsRun ch =>
        rw [exec_ovsRun, if_neg fun hb => hheld ⟨hb, rfl⟩, accept_of_words hw', State.startBatch, cntAfterRun_eq_ite]
        rfl
      | ovsGet => rw [exec_ovsGet, if_neg fun hb => hheld ⟨hb, rfl⟩, accept_of_words hw']; rfl

end Sys2Proof.Machine
end

section
/-! The CRC unit (spec/40_crc8.md R80 to R85): a round in the rule's own words, a byte as eight rounds, and what each CRC
operation does to the registers and to the responses. -/

namespace Sys2Proof.Machine

/-! ### The pure functions -/

/-- R12: the left shift by one is `shl1_8(r) = {r[6:0], 0}`. -/
theorem shiftLeft_one_eq_append (r : Byte) : r <<< 1 = r.extractLsb' 0 7 ++ 0#1 :=
  BitVec.shiftLeft_eq_concat_of_lt (by decide)

theorem crcRound_eq_ite (r : Byte) : crcRound r =
    if r.getLsbD 7 = true then (r.extractLsb' 0 7 ++ 0#1) ^^^ 0x07#8 else r.extractLsb' 0 7 ++ 0#1 := by
  rw [crcRound, BitVec.msb_eq_getLsbD_last, shiftLeft_one_eq_append]
  rfl

/-- Settles O14: the round in the rule's own words, and its examples by evaluation. -/
theorem crcRoundTestsTheTopBitThenShifts : Obligations.CrcRoundTestsTheTopBitThenShifts :=
  ⟨crcRound_eq_ite, by decide⟩

theorem crcByte_eq_rounds (r b : Byte) : crcByte r b =
    crcRound (crcRound (crcRound (crcRound (crcRound (crcRound (crcRound (crcRound (r ^^^ b)))))))) := by
  simp only [crcByte, Config.crcRoundsPerByte, crcRounds_succ, crcRounds_zero]

/-- Settles O15: eight rounds, one recursion equation at a time; the four traces by evaluation. -/
theorem crcByteIsXorThenEightRounds : Obligations.CrcByteIsXorThenEightRounds :=
  ⟨crcByte_eq_rounds, by decide, by decide, by decide, by decide⟩

@[simp] theorem crcRounds_of_zero (n : Nat) : crcRounds n 0x00#8 = 0x00#8 := by
  induction n with
  | zero => rfl
  | succ n ih => exact ih

/-- R84, R89: a byte equal to the register clears it. -/
@[simp] theorem crcByte_self (r : Byte) : crcByte r r = 0x00#8 := by
  simp [crcByte]

/-! ### The words of the CRC operations -/

theorem encode_crcClr : encode .crcClr = 0x1000#16 := by decide

theorem encode_crcGet : encode .crcGet = 0x3000#16 := by decide

theorem encode_crcUpd_eq_or (b : Byte) : encode (.crcUpd b) = 0x2000#16 ||| b.setWidth 16 :=
  have hop : 0x2000#16 = 0x20#8 ++ 0x00#8 := by decide
  have hb : b.setWidth 16 = 0x00#8 ++ b := crcResponse_eq_append b
  calc encode (.crcUpd b)
    _ = 0x20#8 ++ b := encode_crcUpd b
    _ = (0x20#8 ||| 0x00#8) ++ (0x00#8 ||| b) := by rw [BitVec.or_zero, BitVec.zero_or]
    _ = 0x2000#16 ||| b.setWidth 16 := by rw [hop, hb, BitVec.or_append]

/-- R44: an operation of the CRC unit is accepted also while a batch runs. -/
theorem cmdReady_encode_of_not_isOvs {i : Instr} (hi : i.isOvs = false) (busy : Bool) :
    cmdReady false busy (encode i) = true := by
  rw [cmdReady_iff, instrOf_encode]
  refine ⟨rfl, ?_⟩
  rintro ⟨-, hget | ⟨ch, hrun⟩⟩
  · simp [Option.some.inj hget, Instr.isOvs] at hi
  · simp [Option.some.inj hrun, Instr.isOvs] at hi

/-! ### The operations -/

theorem exec_crcClr_crc {s t : State} (h : exec .crcClr s = .next t) : t.crc = 0x00#8 := by
  rw [exec_crcClr] at h
  cases h
  rfl

theorem exec_crcClr_responses {s t : State} (h : exec .crcClr s = .next t) : t.responses = s.responses := by
  rw [exec_crcClr] at h
  cases h
  rfl

/-- R83: clearing a register that is already zero changes no register. -/
theorem exec_crcClr_regs_of_crc_zero {s t : State} (h : exec .crcClr s = .next t) (hz : s.crc = 0x00#8) :
    t.regs = s.regs := by
  rw [exec_crcClr] at h
  cases h
  simp [State.regs, hz]

/-- Settles O22: a second CRC_CLR finds `CRC` zero, so it changes no register either. -/
theorem crcClrClearsTheCrcRegister : Obligations.CrcClrClearsTheCrcRegister := by
  refine ⟨encode_crcClr, exec_crcClr, fun s t h => ⟨exec_crcClr_regs_of_crc_zero h, ?_⟩, ?_⟩
  · obtain ⟨u, hu⟩ := exec_next .crcClr t
    exact ⟨u, hu, exec_crcClr_regs_of_crc_zero hu (exec_crcClr_crc h)⟩
  · rw [← encode_crcClr]
    exact cmdReady_encode_of_not_isOvs rfl

/-- Settles O23: the word is the opcode's byte above the operand; a byte equal to the register leaves eight rounds of
zero. -/
theorem crcUpdAbsorbsOneByte : Obligations.CrcUpdAbsorbsOneByte :=
  ⟨encode_crcUpd_eq_or, exec_crcUpd, fun _ => cmdReady_encode_of_not_isOvs rfl, by decide, crcByte_self 0x00#8,
    crcByte_self, by decide⟩

theorem exec_crcGet_crc {s t : State} (h : exec .crcGet s = .next t) : t.crc = s.crc := by
  rw [exec_crcGet] at h
  cases h
  rfl

theorem exec_crcGet_responses {s t : State} (h : exec .crcGet s = .next t) :
    t.responses = s.responses ++ [0x00#8 ++ s.crc] := by
  rw [exec_crcGet, crcResponse_eq_append] at h
  cases h
  rfl

/-- R85: CRC_GET in a state whose register and responses are known. -/
theorem exec_crcGet_of_crc {t : State} {c : Byte} {rs : List Word} (hc : t.crc = c) (hr : t.responses = rs) :
    ∃ u, exec .crcGet t = .next u ∧ u.responses = rs ++ [0x00#8 ++ c] := by
  obtain ⟨u, hu⟩ := exec_next .crcGet t
  exact ⟨u, hu, by rw [exec_crcGet_responses hu, hc, hr]⟩

/-- Settles O24: each follow-up CRC_GET responds with what the operation before it, or reset, left in `CRC`. -/
theorem crcGetRespondsWithTheRegister : Obligations.CrcGetRespondsWithTheRegister := by
  refine ⟨encode_crcGet, fun s => ?_, fun s t h => ?_, fun s t h => ?_, ?_, ?_⟩
  · rw [exec_crcGet, crcResponse_eq_append]
    rfl
  · simpa using exec_crcGet_of_crc (exec_crcGet_crc h) (exec_crcGet_responses h)
  · exact exec_crcGet_of_crc (exec_crcClr_crc h) (exec_crcClr_responses h)
  · exact exec_crcGet_of_crc State.reset_crc rfl
  · rw [← encode_crcGet]
    exact cmdReady_encode_of_not_isOvs rfl

end Sys2Proof.Machine
end

section
/-! The OVS unit (spec/41_oversampling.md R100 to R106, R111): the sum of a list of samples in numbers, what a list of
deliveries does to a batch, and what OVS_RUN and OVS_GET answer while no batch runs. -/

namespace Sys2Proof.Machine

/-! ### The sum of the samples (R101) -/

theorem ovsSum_eq_sum (vs : List Sample) : ovsSum vs = (vs.map zext14).sum := by
  rw [List.sum_eq_foldl, List.foldl_map]
  rfl

@[simp] theorem ovsSum_nil : ovsSum [] = 0#14 := rfl

theorem ovsSum_cons (v : Sample) (vs : List Sample) : ovsSum (v :: vs) = zext14 v + ovsSum vs := by
  simp only [ovsSum_eq_sum, List.map_cons, List.sum_cons]

theorem ovsSum_replicate_zero (n : Nat) : ovsSum (List.replicate n 0#10) = 0#14 := by
  have hzero : zext14 0#10 = 0 := rfl
  rw [ovsSum_eq_sum, List.map_replicate, hzero, List.sum_replicate, smul_zero]
  rfl

theorem ovsSum_toNat_mod (vs : List Sample) : (ovsSum vs).toNat = (vs.map BitVec.toNat).sum % 2 ^ 14 := by
  induction vs with
  | nil => rfl
  | cons v vs ih => rw [ovsSum_cons, BitVec.toNat_add, zext14_toNat, ih, Nat.add_mod_mod, List.map_cons, List.sum_cons]

theorem sum_toNat_le (vs : List Sample) : (vs.map BitVec.toNat).sum ≤ vs.length * 1023 := by
  have hle : ∀ n ∈ vs.map BitVec.toNat, n ≤ 1023 := by
    simp only [List.forall_mem_map]
    exact fun v _ => Nat.le_of_lt_succ v.isLt
  simpa using List.sum_le_card_nsmul _ _ hle

/-- R101: the 14 bits of `SUM` hold the sum of up to sixteen samples. -/
theorem ovsSum_toNat {vs : List Sample} (hlen : vs.length ≤ 16) :
    (ovsSum vs).toNat = (vs.map BitVec.toNat).sum := by
  have hle := sum_toNat_le vs
  rw [ovsSum_toNat_mod, Nat.mod_eq_of_lt]
  omega

/-- Settles O30: the slice is the quotient by four, and sixteen samples do not overflow the sum. -/
theorem resultIsTheFlooredQuarterOfTheSum : Obligations.ResultIsTheFlooredQuarterOfTheSum := by
  refine ⟨resultOf_toNat, by decide, by decide, fun vs hlen => ?_⟩
  have hsum := ovsSum_toNat hlen.le
  exact ⟨hsum, by rw [ovsRes, resultOf_toNat, hsum]⟩

/-! ### Deliveries (R104) -/

theorem busyAfterSample_running (cnt : CntWord) : busyAfterSample cnt true = decide (cnt + 1#5 ≠ 16#5) :=
  have hlast : cnt + 1#5 = 16#5 ↔ cnt = 15#5 := cntAfterSample_eq_sixteen_iff cnt
  (busyAfterSample_true cnt).trans (decide_eq_decide.2 (not_congr hlast.symm))

theorem addSample_running {s : State} (hb : s.busy = true) (v : Sample) : s.addSample v =
    { s with sum := s.sum + zext14 v, cnt := s.cnt + 1#5, busy := decide (s.cnt + 1#5 ≠ 16#5) } := by
  rw [State.addSample, hb, busyAfterSample_running]
  rfl

/-- A batch to which the remaining samples are added, one delivery at a time, ends at rest with their sum added. The
hypothesis on `BUSY` lets the list be empty. -/
theorem foldl_addSample_completes (vs : List Sample) (s : State) (hb : s.busy = decide (s.cnt ≠ 16#5))
    (hlen : s.cnt.toNat + vs.length = 16) : vs.foldl (fun u v => u.addSample v) s =
    { s with sum := s.sum + ovsSum vs, cnt := 16#5, busy := false } := by
  induction vs generalizing s with
  | nil =>
    have hcnt : s.cnt = 16#5 := BitVec.eq_of_toNat_eq hlen
    have hidle : s.busy = false := by simpa [hcnt] using hb
    rw [List.foldl_nil, ovsSum_nil, BitVec.add_zero, ← hcnt, ← hidle]
  | cons v vs ih =>
    rw [List.length_cons] at hlen
    have hcnt : s.cnt ≠ 16#5 := fun h => by simp [h] at hlen
    have hrun : s.busy = true := by simpa [hcnt] using hb
    have hnext : (s.cnt + 1#5).toNat = s.cnt.toNat + 1 := cntAfterSample_toNat s.cnt (by omega)
    rw [List.foldl_cons, addSample_running hrun, ih _ rfl (by simp only [hnext]; omega), ovsSum_cons,
      BitVec.add_assoc]

/-- Settles O28: the source's turn with and without a running batch; the examples by the field equations of a
delivery. -/
theorem sampleIsAddedOnlyWhileABatchRuns : Obligations.SampleIsAddedOnlyWhileABatchRuns := by
  refine ⟨fun s v vs ts ht hs hb => ?_, fun s ts ht hb => ?_, fun s hsum hcnt hb => ?_, fun s hsum hcnt hb => ?_⟩
  · rw [step_turn ht, runTurn, sourceTurn_deliver (by exact hb) (by exact hs), addSample_running (by exact hb)]
    rfl
  · rw [step_turn ht, runTurn, sourceTurn_idle (by exact hb)]
  · rw [addSample_running hb, hsum, hcnt]
    exact ⟨rfl, rfl, rfl⟩
  · rw [addSample_running hb, hsum, hcnt]
    exact ⟨rfl, rfl, rfl⟩

/-! ### OVS_RUN (R100, R102, R111) -/

/-- R102: the opcode's byte above the operand; `++` is by definition the shifted upper part or-ed with the lower one. -/
theorem encode_ovsRun_eq_or (ch : Byte) : encode (.ovsRun ch) = 0x8000#16 ||| ch.setWidth 16 :=
  encode_ovsRun ch

theorem sampleGate_eq_ite (ch : Byte) (v : Sample) : sampleGate ch v = if ch.toNat < 8 then v else 0#10 := by
  split_ifs with h
  · exact sampleGate_valid h v
  · exact sampleGate_invalid (Nat.le_of_not_lt h) v

theorem exec_ovsRun_valid {ch : Byte} {s : State} (hb : s.busy = false) (hch : ch.toNat < 8) :
    exec (.ovsRun ch) s = .next
      { s.accept with ch := channelLatch ch, sum := 0#14, cnt := 0#5, busy := true } := by
  rw [exec_ovsRun, if_neg (by simp [hb]), State.startBatch, cntAfterRun_valid hch, busyAfterRun_valid hch]

theorem exec_ovsRun_invalid {ch : Byte} {s : State} (hb : s.busy = false) (hch : 8 ≤ ch.toNat) :
    exec (.ovsRun ch) s = .next
      { s.accept with ch := channelLatch ch, sum := 0#14, cnt := 16#5, busy := false } := by
  rw [exec_ovsRun, if_neg (by simp [hb]), State.startBatch, cntAfterRun_invalid hch, busyAfterRun_invalid hch]

theorem exec_ovsRun_invalid_result {ch : Byte} {s t : State} (hb : s.busy = false) (hch : 8 ≤ ch.toNat)
    (h : exec (.ovsRun ch) s = .next t) : t.busy = false ∧ t.sum = 0#14 ∧ t.responses = s.responses := by
  rw [exec_ovsRun_invalid hb hch] at h
  cases h
  exact ⟨rfl, rfl, rfl⟩

theorem setWidth_channel_lt (c : Channel) : (c.setWidth 8).toNat < 8 := by
  rw [BitVec.toNat_setWidth_of_le (by decide)]
  exact c.isLt

theorem channelLatch_setWidth (c : Channel) : channelLatch (c.setWidth 8) = c := by
  rw [channelLatch, ← BitVec.setWidth_eq_extractLsb' (by decide), BitVec.setWidth_setWidth_of_le c (by decide),
    BitVec.setWidth_eq]

/-- Settles O25: the gate by its two cases, and `s_req` from the register that the completed OVS_RUN leaves. -/
theorem sampleGatePassesOnlyValidChannels : Obligations.SampleGatePassesOnlyValidChannels :=
  ⟨sampleGate_eq_ite, fun _ _ _ _ hb hch h => (exec_ovsRun_invalid_result hb hch h).1⟩

/-- Settles O29: OVS_RUN on the latched channel, which is valid, starts a batch from zero, and sixteen zero samples
complete it with the sum unchanged. -/
theorem invalidChannelEndsAsSixteenZeroSamplesWould : Obligations.InvalidChannelEndsAsSixteenZeroSamplesWould := by
  intro ch s hb hch
  refine ⟨_, exec_ovsRun_invalid hb hch, rfl, rfl, rfl, rfl, fun _ => rfl, sampleGate_invalid hch,
    _, exec_ovsRun_valid hb (setWidth_channel_lt _), ?_⟩
  rw [foldl_addSample_completes _ _ rfl rfl, ovsSum_replicate_zero, channelLatch_setWidth]
  rfl

/-! ### OVS_GET (R103) -/

theorem exec_ovsGet_idle {s : State} (hb : s.busy = false) :
    exec .ovsGet s = .next (s.accept.respond (ovsResponse s.sum)) := by
  rw [exec_ovsGet, if_neg (by simp [hb])]

theorem exec_ovsGet_idle_result {s t : State} (hb : s.busy = false) (h : exec .ovsGet s = .next t) :
    t.busy = false ∧ t.sum = s.sum ∧ t.responses = s.responses ++ [ovsResponse s.sum] := by
  rw [exec_ovsGet_idle hb] at h
  cases h
  exact ⟨hb, rfl, rfl⟩

/-- R103: OVS_GET in an idle state whose sum and responses are known. -/
theorem exec_ovsGet_of_sum {t : State} {x : SumWord} {rs : List Word} (hb : t.busy = false) (hx : t.sum = x)
    (hr : t.responses = rs) : ∃ u, exec .ovsGet t = .next u ∧ u.responses = rs ++ [ovsResponse x] :=
  ⟨_, exec_ovsGet_idle hb, by rw [State.respond_responses, State.accept_responses, hx, hr]⟩

/-- R103: no response of OVS_GET in a state that meets R31 is above `0x0FFC`. -/
theorem ovsResponse_le_of_inv {s : State} (hinv : Inv s) : (ovsResponse s.sum).toNat ≤ 0x0FFC := by
  have hsum := hinv.sumBound
  have hcnt := hinv.cntBound
  rw [ovsResponse_toNat]
  omega

/-- Settles O26: the operation by whether a batch runs and whether the channel is valid; after an invalid channel
OVS_GET finds the sum zero. -/
theorem ovsRunStartsABatchOrIsHeld : Obligations.OvsRunStartsABatchOrIsHeld := by
  refine ⟨encode_ovsRun_eq_or, fun _ _ => exec_ovsRun_valid, fun _ _ => exec_ovsRun_invalid,
    fun _ _ hb => exec_held hb rfl, fun ch s t hb hch h => ?_, fun s hb => ⟨?_, ?_, ?_⟩, ?_⟩
  · obtain ⟨htb, hsum, hresp⟩ := exec_ovsRun_invalid_result hb hch h
    exact exec_ovsGet_of_sum htb hsum hresp
  · exact ⟨_, exec_ovsRun_valid hb (by decide), rfl, rfl⟩
  · exact ⟨_, exec_ovsRun_invalid hb (by decide), rfl, rfl⟩
  · exact ⟨_, exec_ovsRun_invalid hb (by decide), rfl, rfl⟩
  · exact ⟨_, exec_ovsRun_valid State.reset_busy (by decide), rfl, rfl, rfl, rfl, fun _ => ⟨rfl, rfl⟩⟩

/-- Settles O27: a response leaves the registers as they were, so the second OVS_GET finds the same sum; the bound from
R31 on `SUM` and `CNT`. -/
theorem ovsGetRespondsWithTheShiftedSumOrIsHeld : Obligations.OvsGetRespondsWithTheShiftedSumOrIsHeld := by
  refine ⟨by decide, fun s hb => ?_, fun _ hb => exec_held hb rfl, fun s t hb h => ?_, ?_,
    fun _ => ovsResponse_le_of_inv, by decide, by decide⟩
  · rw [exec_ovsGet_idle hb, ovsResponse_eq_append]
    rfl
  · obtain ⟨htb, hsum, hresp⟩ := exec_ovsGet_idle_result hb h
    simpa using exec_ovsGet_of_sum htb hsum hresp
  · exact exec_ovsGet_of_sum State.reset_busy State.reset_sum rfl

end Sys2Proof.Machine
end

section
/-! The composite functions (spec/42_composite.md R120, R122): `crc8` of a message that grows at its end, and
`readOversampled` on a valid and on an invalid channel. -/

namespace Sys2Proof.Machine

/-! ### crc8 (R120) -/

@[simp] theorem crc8_nil : crc8 [] = 0x00#8 := rfl

theorem crc8_eq_foldl (m : List Byte) : crc8 m = List.foldl crcByte 0x00#8 m := rfl

/-- The CRC so far is all that the rest of a message depends on. -/
theorem crc8_append (m m' : List Byte) : crc8 (m ++ m') = crcFold (crc8 m) m' :=
  crcFold_append Config.crcInit m m'

theorem crc8_concat (m : List Byte) (b : Byte) : crc8 (m ++ [b]) = crcByte (crc8 m) b := by
  rw [crc8_append, crcFold_cons, crcFold_nil]

/-- Settles O21: the message cut before its last byte, and the fold as the definition has it. -/
theorem crcOfAMessageIsTheFoldOfItsBytes : Obligations.CrcOfAMessageIsTheFoldOfItsBytes :=
  ⟨crc8_nil, crc8_concat, crc8_eq_foldl⟩

/-! ### readOversampled (R122) -/

theorem ovsRes_toNat {vs : List Sample} (hlen : vs.length ≤ 16) :
    (ovsRes vs).toNat = (vs.map BitVec.toNat).sum / 4 := by
  rw [ovsRes, resultOf_toNat, ovsSum_toNat hlen]

theorem map_sampleGate_valid {ch : Byte} (hch : ch.toNat < 8) (vs : List Sample) : vs.map (sampleGate ch) = vs :=
  List.map_id'' (sampleGate_valid hch) vs

theorem map_sampleGate_invalid {ch : Byte} (hch : 8 ≤ ch.toNat) (vs : List Sample) :
    vs.map (sampleGate ch) = List.replicate vs.length 0#10 := by
  rw [funext (sampleGate_invalid hch), List.map_const']

theorem readOversampled_valid {ch : Byte} (hch : ch.toNat < 8) (vs : List Sample) :
    readOversampled ch vs = ovsRes vs := by
  rw [readOversampled, map_sampleGate_valid hch]

/-- On an invalid channel the samples do not matter, nor how many there are. -/
theorem readOversampled_invalid {ch : Byte} (hch : 8 ≤ ch.toNat) (vs : List Sample) :
    readOversampled ch vs = 0#12 := by
  rw [readOversampled, map_sampleGate_invalid hch, ovsRes, ovsSum_replicate_zero]
  rfl

/-- Settles O34: the gate passes all sixteen samples or makes them all zero; passed, they do not overflow the sum. -/
theorem readOversampledIsTheFlooredQuarterOrZero : Obligations.ReadOversampledIsTheFlooredQuarterOrZero := by
  refine fun ch vs hlen => ⟨rfl, ?_⟩
  split_ifs with hch
  · rw [readOversampled_valid hch, ovsRes_toNat hlen.le]
  · rw [readOversampled_invalid (Nat.le_of_not_lt hch)]
    rfl

end Sys2Proof.Machine
end

section
/-! Events at one clock edge (spec/60_exceptions.md R134): an edge with `rst`, and an edge at which a word is accepted
and a sample delivered, cut into one edge of each. The command writes only `CRC` and the delivery only the registers
of the batch, so the two edges commute. -/

namespace Sys2Proof.Machine

/-! ### An edge with `rst` (R134 (a), R150) -/

theorem pinAccepted_reset {p : PinsIn} (hrst : p.rst = true) (r : Regs) : pinAccepted r p = false := by
  simp [pinAccepted, cmdReady, hrst]

theorem pinDelivered_reset {p : PinsIn} (hrst : p.rst = true) (r : Regs) : pinDelivered r p = false := by
  simp [pinDelivered, hrst]

theorem pinRspValid_reset {p : PinsIn} (hrst : p.rst = true) (r : Regs) : pinRspValid r p = false := by
  simp [pinRspValid, pinAccepted_reset hrst]

theorem pinEdge_reset {p : PinsIn} (hrst : p.rst = true) (r : Regs) : pinEdge r p = State.reset.regs := by
  simp [pinEdge, crcNext, sumNext, cntNext, chNext, busyNext, hrst, State.regs]

/-! ### A word accepted while a batch runs (R44) -/

/-- A word that is accepted while a batch runs is accepted whatever `BUSY` is. -/
theorem cmdReady_of_running {w : Word} (h : cmdReady false true w = true) (busy : Bool) :
    cmdReady false busy w = true := by
  obtain ⟨-, hovs⟩ := (cmdReady_iff false true w).1 h
  exact (cmdReady_iff false busy w).2 ⟨rfl, fun ⟨_, hw⟩ => hovs ⟨rfl, hw⟩⟩

theorem rowOvsRun_not_selects_of_running {w : Word} (h : cmdReady false true w = true) :
    rowOvsRun.selects w = false := by
  obtain ⟨-, hovs⟩ := (cmdReady_iff false true w).1 h
  rw [← Bool.not_eq_true, rowOvsRun_selects_iff]
  exact fun hrun => hovs ⟨rfl, .inr hrun⟩

/-! ### An edge that starts no batch -/

/-- R104 at the pins: the registers after one delivered sample. -/
def Regs.deliver (v : Sample) (r : Regs) : Regs :=
  { r with sum := r.sum + (0#4 ++ v), cnt := r.cnt + 1#5, busy := r.cnt != 15#5 }

theorem crcNext_of_not_accepted {r : Regs} {p : PinsIn} (hrst : p.rst = false) (hacc : pinAccepted r p = false) :
    crcNext r p = r.crc := by
  simp [crcNext, hrst, hacc]

/-- The next `CRC` depends on the other registers and on the source's pins through the acceptance alone. -/
theorem crcNext_congr {r r' : Regs} {p p' : PinsIn} (hcrc : r.crc = r'.crc) (hrst : p.rst = p'.rst)
    (hcmd : p.cmd = p'.cmd) (hacc : pinAccepted r p = pinAccepted r' p') : crcNext r p = crcNext r' p' := by
  simp only [crcNext, hcrc, hrst, hcmd, hacc]

/-- R104: a delivery falls only while a batch runs, so the command beside it can write nothing but `CRC`. -/
theorem pinEdge_of_delivery {r : Regs} {p : PinsIn} (hdel : pinDelivered r p = true) :
    pinEdge r p = { r.deliver p.sData with crc := crcNext r p } := by
  obtain ⟨hrst, hb, -⟩ := (pinDelivered_iff r p).1 hdel
  by_cases hlast : r.cnt = 15#5 <;>
    simp [pinEdge, sumNext, cntNext, chNext, busyNext, Regs.deliver, hrst, pinRun_running hb, hdel, hb, hlast]

theorem pinEdge_of_delivery_alone {r : Regs} {p : PinsIn} (hacc : pinAccepted r p = false)
    (hdel : pinDelivered r p = true) : pinEdge r p = r.deliver p.sData := by
  obtain ⟨hrst, -, -⟩ := (pinDelivered_iff r p).1 hdel
  rw [pinEdge_of_delivery hdel, crcNext_of_not_accepted hrst hacc]
  rfl

theorem pinEdge_of_no_delivery {r : Regs} {p : PinsIn} (hrst : p.rst = false) (hrun : pinRun r p = false)
    (hdel : pinDelivered r p = false) : pinEdge r p = { r with crc := crcNext r p } := by
  simp [pinEdge, sumNext, cntNext, chNext, busyNext, hrst, hrun, hdel]

/-! ### The edge of both, cut in two (R134 (b), R153) -/

theorem pinEdge_command_then_delivery {r : Regs} {p : PinsIn} (hdel : pinDelivered r p = true) :
    pinEdge (pinEdge r { p with sValid := false }) { p with cmdValid := false } = pinEdge r p := by
  obtain ⟨hrst, hb, hv⟩ := (pinDelivered_iff r p).1 hdel
  have hcommand : pinEdge r { p with sValid := false } = { r with crc := crcNext r p } :=
    pinEdge_of_no_delivery hrst (pinRun_running hb _) (by simp [pinDelivered])
  rw [hcommand, pinEdge_of_delivery hdel]
  exact pinEdge_of_delivery_alone rfl ((pinDelivered_iff _ _).2 ⟨hrst, hb, hv⟩)

/-- Also when the delivery is the sixteenth: the word was accepted while the batch ran, so it starts no batch now. -/
theorem pinEdge_delivery_then_command {r : Regs} {p : PinsIn} (hacc : pinAccepted r p = true)
    (hdel : pinDelivered r p = true) :
    pinEdge (pinEdge r { p with cmdValid := false }) { p with sValid := false } = pinEdge r p := by
  obtain ⟨hrst, hb, -⟩ := (pinDelivered_iff r p).1 hdel
  obtain ⟨hcv, hready⟩ : p.cmdValid = true ∧ cmdReady false true p.cmd = true := by
    simpa [pinAccepted, hrst, hb] using hacc
  have hdelivery : pinEdge r { p with cmdValid := false } = r.deliver p.sData := pinEdge_of_delivery_alone rfl hdel
  have hacc' : pinAccepted (r.deliver p.sData) { p with sValid := false } = true := by
    simp [pinAccepted, hcv, hrst, cmdReady_of_running hready]
  have hcommand : pinEdge (r.deliver p.sData) { p with sValid := false } =
      { r.deliver p.sData with crc := crcNext (r.deliver p.sData) { p with sValid := false } } :=
    pinEdge_of_no_delivery hrst (by simp [pinRun, rowOvsRun_not_selects_of_running hready]) (by simp [pinDelivered])
  have hcrc : crcNext (r.deliver p.sData) { p with sValid := false } = crcNext r p :=
    crcNext_congr rfl rfl rfl (hacc'.trans hacc.symm)
  rw [hdelivery, hcommand, hcrc, pinEdge_of_delivery hdel]

/-! ### An OVS word at the edge of a delivery (R134 (c)) -/

/-- The `BUSY` before the edge holds the word, also when this delivery is the sixteenth. -/
theorem bothTurn_held {s : State} {w : Word} {ws : List Word} {v : Sample} {vs : List Sample} (hb : s.busy = true)
    (hw : s.words = w :: ws) (hovs : isOvsWord w = true) (hs : s.samples = v :: vs) :
    bothTurn s = .next (({ s with samples := vs } : State).addSample v) := by
  rw [bothTurn_running hb (hostTurn_held hw hb hovs), sourceTurn_deliver hb hs]

/-- Settles O44: the edge with `rst` by its four parts, the edge of both cut in either order, and a running batch
holding an OVS word whoever else acts. -/
theorem simultaneousEventsResolveAsStated : Obligations.SimultaneousEventsResolveAsStated := by
  refine ⟨fun r p hrst => ?_, fun r p _ hacc hdel => ?_, fun s w ws v vs ts hb ht hw hovs hs => ?_,
    fun s ch hb _ => exec_held hb rfl⟩
  · exact ⟨pinAccepted_reset hrst r, pinDelivered_reset hrst r, pinRspValid_reset hrst r, pinEdge_reset hrst r⟩
  · exact ⟨(pinEdge_command_then_delivery hdel).symm, (pinEdge_delivery_then_command hacc hdel).symm⟩
  · exact (step_turn ht).trans (bothTurn_held (s := { s with turns := ts }) hb hw hovs hs)

end Sys2Proof.Machine
end

section
/-! Reset, and the edge of both agents (spec/70_reset_and_hazards.md R150, R151, R153): what a reset leaves of a batch and
of a held word, what ends a batch, and a word accepted while a batch runs, which reads and writes only what a delivery
leaves alone. -/

namespace Sys2Proof.Machine

/-! ### Acceptance and delivery (R153) -/

/-- R44, R55: a word that a running batch does not hold acts on `CRC` and the responses alone, in every state. -/
theorem hostTurn_of_accepted_running {w : Word} (h : cmdReady false true w = true) :
    ∃ (newCrc : Byte → Byte) (rsp : Byte → List Word), ∀ (s : State) (ws : List Word), s.words = w :: ws →
      hostTurn s = .next { s with words := ws, crc := newCrc s.crc, responses := s.responses ++ rsp s.crc } := by
  obtain ⟨-, hovs⟩ := (cmdReady_iff false true w).1 h
  cases hd : decode w with
  | illegal why =>
    refine ⟨id, fun _ => [], fun s ws hw => ?_⟩
    rw [hostTurn_illegal hw hd, accept_of_words hw, List.append_nil, id_eq]
  | legal i =>
    have hi : instrOf w = some i := (instrOf_eq_some_iff w i).2 hd
    cases i with
    | crcClr =>
      refine ⟨fun _ => 0x00#8, fun _ => [], fun s ws hw => ?_⟩
      rw [hostTurn_legal hw hd, exec_crcClr, accept_of_words hw, List.append_nil]
    | crcUpd b =>
      refine ⟨fun c => crcByte c b, fun _ => [], fun s ws hw => ?_⟩
      rw [hostTurn_legal hw hd, exec_crcUpd, accept_of_words hw, List.append_nil]
    | crcGet =>
      refine ⟨id, fun c => [crcResponse c], fun s ws hw => ?_⟩
      rw [hostTurn_legal hw hd, exec_crcGet, accept_of_words hw]
      rfl
    | ovsRun ch => exact absurd ⟨rfl, .inr ⟨ch, hi⟩⟩ hovs
    | ovsGet => exact absurd ⟨rfl, .inl hi⟩ hovs

theorem runFor_one (s : State) : runFor 1 s = step s := by
  obtain ⟨t, ht⟩ := step_next s
  rw [runFor_succ ht, runFor_zero, ht]

theorem step_source_deliver {s : State} {v : Sample} {vs : List Sample} {ts : List Turn}
    (ht : s.turns = .source :: ts) (hb : s.busy = true) (hs : s.samples = v :: vs) :
    step s = .next (({ s with turns := ts, samples := vs } : State).addSample v) := by
  rw [step_turn ht, runTurn, sourceTurn_deliver (by exact hb) (by exact hs)]

/-- While a batch runs, the edge of both agents is the host's turn followed by the source's. -/
theorem step_both_running {s t : State} {ts : List Turn} (ht : s.turns = .both :: ts) (hb : s.busy = true)
    (hhost : hostTurn { s with turns := ts } = .next t) : step s = .next t.sourceTurn :=
  (step_turn ht).trans (bothTurn_running hb hhost)

/-- Settles O43: the word reads and writes only `CRC`, its place on the port and the responses, the delivery only the
registers of the batch and its sample, so either order writes the same fields. -/
theorem acceptanceAndDeliveryCommute : Obligations.AcceptanceAndDeliveryCommute := by
  intro s w ws v vs ts hb hw hs hready
  obtain ⟨newCrc, rsp, hhost⟩ := hostTurn_of_accepted_running (hb ▸ hready)
  refine ⟨({ s with turns := ts, words := ws, samples := vs, crc := newCrc s.crc,
                    responses := s.responses ++ rsp s.crc } : State).addSample v, ?_, ?_, ?_, rfl, rfl⟩
  · have hboth := step_both_running (s := { s with turns := .both :: ts }) rfl hb (hhost _ ws hw)
    rw [hboth, sourceTurn_deliver (by exact hb) (by exact hs)]
  · have hfirst := (step_host (s := { s with turns := .host :: .source :: ts }) rfl).trans (hhost _ ws hw)
    rw [runFor_succ hfirst, runFor_one, step_source_deliver rfl (by exact hb) (by exact hs)]
  · have hfirst := step_source_deliver (s := { s with turns := .source :: .host :: ts }) rfl hb hs
    rw [runFor_succ hfirst, runFor_one]
    exact (step_host rfl).trans (hhost _ ws hw)

/-! ### A reset step (R150) -/

theorem step_reset {s : State} {keeps : Bool} {ts : List Turn} (ht : s.turns = .reset keeps :: ts) :
    step s = .next (({ s with turns := ts } : State).hostAtReset keeps).stepReset := step_turn ht

/-- Settles O36: the reset step by its fields; at the pins `rst` blocks acceptance and delivery, and the edge answers the
reset registers whatever they were before. -/
theorem resetPutsEveryRegisterAtItsResetValue : Obligations.ResetPutsEveryRegisterAtItsResetValue := by
  refine ⟨fun s keeps ts ht => ?_, fun busy w => rfl, fun r p hrst => ?_⟩
  · exact ⟨_, step_reset ht, rfl, rfl, rfl, rfl, rfl, State.hostAtReset_samples _ keeps,
      State.hostAtReset_responses _ keeps, State.hostAtReset_turns _ keeps, State.hostAtReset_words _ keeps,
      fun p => rfl, fun w => rfl⟩
  · refine ⟨pinEdge_reset hrst r, pinRspValid_reset hrst r, pinDelivered_reset hrst r, ?_⟩
    rw [pinEdge_reset hrst, pinEdge_reset hrst]

/-! ### What ends a batch (R151) -/

theorem sourceTurn_cnt_of_batch_end {s : State} (hb : s.busy = true) (h : s.sourceTurn.busy = false) :
    s.sourceTurn.cnt = s.cnt + 1#5 := by
  obtain ⟨-, hsame⟩ | ⟨v, vs, -, -, hdelivered⟩ := sourceTurn_cases s
  · simp [hsame, hb] at h
  · rw [hdelivered]
    rfl

/-- A step that ends a batch without reset has counted one sample. -/
theorem step_cnt_of_batch_end {s t : State} (h : step s = .next t) (hb : s.busy = true) (ht : t.busy = false)
    (hrst : s.resetNow = false) : t.cnt = s.cnt + 1#5 := by
  obtain ⟨-, rfl⟩ | ⟨ts, -, hhost⟩ | ⟨ts, -, rfl⟩ | ⟨ts, -, hidle, -⟩ | ⟨ts, u, -, -, hhost, rfl⟩ |
    ⟨keeps, ts, hturns, -⟩ := step_cases h
  · simp [hb] at ht
  · obtain ⟨htb, -⟩ := hostTurn_running (s := { s with turns := ts }) hb hhost
    simp [htb] at ht
  · exact sourceTurn_cnt_of_batch_end (s := { s with turns := ts }) hb ht
  · simp [hb] at hidle
  · obtain ⟨hub, hucnt⟩ := hostTurn_running (s := { s with turns := ts }) hb hhost
    rw [sourceTurn_cnt_of_batch_end hub ht, hucnt]
  · simp [resetNow_of_turn hturns, Turn.isReset] at hrst

/-- R151: a batch ends only by reset or by the delivery that brings the count from 15 to 16. -/
theorem step_batch_end {s t : State} (h : step s = .next t) (hb : s.busy = true) (ht : t.busy = false) :
    s.resetNow = true ∨ (s.presented.isSome = true ∧ s.cnt = 15#5 ∧ t.cnt = 16#5) := by
  obtain hrst | ⟨hpres, hlast⟩ := (step_busy_false_iff h hb).1 ht
  · exact .inl hrst
  · cases hrst : s.resetNow with
    | true => exact .inl rfl
    | false =>
      exact .inr ⟨hpres, (cntAfterSample_eq_sixteen_iff s.cnt).1 hlast,
        (step_cnt_of_batch_end h hb ht hrst).trans hlast⟩

/-! ### A word held at a reset (R151) -/

/-- An OVS word that is held, and still offered at the reset edge and after it, meets the reset registers. -/
theorem runFor_held_over_reset {s : State} {i : Instr} {ws : List Word} {ts : List Turn} (hi : i.isOvs = true)
    (hb : s.busy = true) (hw : s.words = encode i :: ws) (ht : s.turns = .host :: .reset true :: .host :: ts) :
    runFor 2 s = .next ({ s with turns := .host :: ts } : State).stepReset ∧
    runFor 3 s = exec i ({ s with turns := ts } : State).stepReset := by
  have hd : decode (encode i) = .legal i := (decode_legal_iff_encode _ i).2 rfl
  have hheld : step s = .next { s with turns := .reset true :: .host :: ts } :=
    (step_host ht).trans (hostTurn_held hw hb ((isOvsWord_of_legal hd).trans hi))
  have hreset : step { s with turns := .reset true :: .host :: ts } =
      .next ({ s with turns := .host :: ts } : State).stepReset :=
    step_reset (s := { s with turns := .reset true :: .host :: ts }) rfl
  constructor
  · rw [runFor_succ hheld, runFor_one, hreset]
  · rw [runFor_succ hheld, runFor_succ hreset, runFor_one]
    exact (step_host rfl).trans (hostTurn_legal hw hd)

theorem ovsResponse_zero : ovsResponse 0#14 = 0x0000#16 := by decide

/-- Settles O37: the held word is performed on the reset registers, where `SUM` is zero and no batch runs; what ends a
batch by the cases of a step, and the count is then 15 also in states outside R31. -/
theorem resetAbandonsTheBatchAndTheHold : Obligations.ResetAbandonsTheBatchAndTheHold := by
  refine ⟨fun s ws ts hb hw ht => ?_, fun s ch ws ts hb hch hw ht => ?_, fun s t _ => step_batch_end⟩
  · obtain ⟨hreset, hoffer⟩ := runFor_held_over_reset rfl hb hw ht
    exact ⟨_, _, hreset, rfl, rfl, rfl, rfl, rfl, hoffer.trans (exec_ovsGet_idle rfl), congrArg List.tail hw,
      congrArg (fun rsp => s.responses ++ [rsp]) ovsResponse_zero⟩
  · obtain ⟨hreset, hoffer⟩ := runFor_held_over_reset rfl hb hw ht
    exact ⟨_, _, hreset, rfl, rfl, hoffer.trans (exec_ovsRun_valid rfl hch), congrArg List.tail hw, rfl, rfl, rfl⟩

end Sys2Proof.Machine
end

section
/-! Words and readings as the spec writes them (spec/30_encoding.md R64; spec/20_memory.md R49): decoding undoes
encoding and a response word is its two bytes. -/

namespace Sys2Proof.Machine

/-- Settles O3: the decoder's chain answers an operation exactly on the fields of that operation's word, and a word is
its fields. -/
theorem wordDecodesExactlyToWhatItEncodes : Obligations.WordDecodesExactlyToWhatItEncodes :=
  decode_legal_iff_encode

/-- Settles O4: each word of V30 is the encoding of its operation. -/
theorem wordsWrittenOutDecode : Obligations.WordsWrittenOutDecode := by
  simp only [Obligations.WordsWrittenOutDecode, decode_legal_iff_encode]
  decide

theorem highByte_append_lowByte (rsp : Word) : highByte rsp ++ lowByte rsp = rsp :=
  ((word_eq_append_iff rsp _ _).2 ⟨rfl, rfl⟩).symm

theorem highByte_toNat (rsp : Word) : (highByte rsp).toNat = rsp.toNat / 256 := by
  have := rsp.isLt
  rw [highByte, BitVec.extractLsb'_toNat, Nat.shiftRight_eq_div_pow]
  omega

theorem lowByte_toNat (rsp : Word) : (lowByte rsp).toNat = rsp.toNat % 256 := by
  rw [lowByte, BitVec.extractLsb'_toNat, Nat.shiftRight_zero]

/-- Settles O7: the two bytes are the quotient and the remainder of the word by 256, and a reading is below `2^12`. -/
theorem readingSplitsIntoHighAndLowByte : Obligations.ReadingSplitsIntoHighAndLowByte := by
  refine ⟨highByte_append_lowByte, fun sum => ?_⟩
  have hsum := sum.isLt
  constructor
  · apply BitVec.eq_of_toNat_eq
    rw [BitVec.extractLsb'_toNat, highByte_toNat, ovsResponse_toNat, Nat.shiftRight_eq_div_pow, BitVec.toNat_ofNat]
    omega
  · rw [highByte_toNat, lowByte_toNat, ovsResponse_toNat, resultOf_toNat]
    omega

end Sys2Proof.Machine
end

section
/-! The algebra of the CRC (spec/40_crc8.md R82, R87 to R90): a round moves bits by XORs, so it is linear over XOR and
has an inverse, and both pass on to a byte and to a message. -/

namespace Sys2Proof.Machine

/-! ### Linearity (R87) -/

/-- R80: a round is the shift and, by the top bit, the polynomial. -/
theorem crcRound_eq_xor (x : Byte) : crcRound x = (x <<< 1) ^^^ if x.msb then Config.crcPoly else 0#8 := by
  rw [crcRound]
  split_ifs <;> simp

theorem crcRound_xor (x y : Byte) : crcRound (x ^^^ y) = crcRound x ^^^ crcRound y := by
  have hpoly : (if (x.msb ^^ y.msb) = true then Config.crcPoly else 0#8) =
      (if x.msb = true then Config.crcPoly else 0#8) ^^^ (if y.msb = true then Config.crcPoly else 0#8) := by
    cases x.msb <;> cases y.msb <;> rfl
  rw [crcRound_eq_xor, crcRound_eq_xor, crcRound_eq_xor, BitVec.shiftLeft_xor_distrib, BitVec.msb_xor, hpoly]
  ac_rfl

theorem crcRounds_xor (n : Nat) (x y : Byte) : crcRounds n (x ^^^ y) = crcRounds n x ^^^ crcRounds n y := by
  induction n generalizing x y with
  | zero => rfl
  | succ n ih => simp only [crcRounds_succ, crcRound_xor, ih]

theorem crcByte_xor (r r' b b' : Byte) : crcByte (r ^^^ r') (b ^^^ b') = crcByte r b ^^^ crcByte r' b' := by
  rw [crcByte, crcByte, crcByte, ← crcRounds_xor]
  congr 1
  ac_rfl

/-- The CRC of two messages of equal length, from any two register values. -/
theorem crcFold_zipWith_xor (m m' : List Byte) (r r' : Byte) (hlen : m.length = m'.length) :
    crcFold (r ^^^ r') (List.zipWith (· ^^^ ·) m m') = crcFold r m ^^^ crcFold r' m' := by
  induction m generalizing m' r r' with
  | nil =>
    obtain rfl : m' = [] := List.length_eq_zero_iff.1 hlen.symm
    rfl
  | cons b m ih =>
    cases m' with
    | nil => cases hlen
    | cons b' m' =>
      rw [List.zipWith_cons_cons, crcFold_cons, crcFold_cons, crcFold_cons, crcByte_xor, ih _ _ _ (Nat.succ.inj hlen)]

/-- Settles O17: a round is linear because the shift and the top bit are, a byte because its rounds are, and a message
by induction on its bytes. -/
theorem crcIsLinearOverXor : Obligations.CrcIsLinearOverXor := by
  refine ⟨crcRound_xor, by decide, crcByte_xor, fun r b => ⟨?_, ?_⟩, crcByte_self 0x00#8, fun m m' hlen => ?_⟩
  · rw [crcByte, crcByte, BitVec.xor_zero]
  · rw [crcByte, crcByte, BitVec.zero_xor]
  · exact crcFold_zipWith_xor m m' 0x00#8 0x00#8 hlen

/-! ### The table and the bit equations (R82) -/

/-- R80: where a round puts each bit. -/
theorem getLsbD_crcRound (c : Byte) :
    (crcRound c).getLsbD 0 = c.getLsbD 7 ∧ (crcRound c).getLsbD 1 = (c.getLsbD 0 ^^ c.getLsbD 7) ∧
    (crcRound c).getLsbD 2 = (c.getLsbD 1 ^^ c.getLsbD 7) ∧ (crcRound c).getLsbD 3 = c.getLsbD 2 ∧
    (crcRound c).getLsbD 4 = c.getLsbD 3 ∧ (crcRound c).getLsbD 5 = c.getLsbD 4 ∧
    (crcRound c).getLsbD 6 = c.getLsbD 5 ∧ (crcRound c).getLsbD 7 = c.getLsbD 6 := by
  rw [crcRound_eq_xor, BitVec.msb_eq_getLsbD_last]
  cases h : c.getLsbD 7 <;> simp [Config.crcPoly]

/-- R82 (a): the printed table is eight rounds of every byte in order, by evaluation. -/
theorem crcTable_eq_map : crcTable = everyByte.map (crcRounds Config.crcRoundsPerByte) := by
  decide +kernel

theorem crcTable_length : crcTable.length = 256 := by
  rw [crcTable_eq_map, everyByte, List.length_map, List.length_map, List.length_range]

theorem crcTable_getElem? (c : Byte) : crcTable[c.toNat]? = some (crcRounds Config.crcRoundsPerByte c) := by
  rw [crcTable_eq_map, everyByte, List.map_map, List.getElem?_map, List.getElem?_range c.isLt, Option.map_some,
    Function.comp_apply, BitVec.ofNat_toNat, BitVec.setWidth_eq]

/-- Settles O16: the printed table entry by entry; the bit equations by following each bit through eight rounds, where
what is XORed in twice cancels. -/
theorem crcByteAgreesWithTableAndBitEquations : Obligations.CrcByteAgreesWithTableAndBitEquations := by
  refine ⟨fun r b => crcTable_getElem? (r ^^^ b), crcTable_length, fun r b => ?_⟩
  simp only [crcByte_eq_rounds, getLsbD_crcRound, Bool.xor_assoc, Bool.xor_comm, Bool.xor_left_comm, Bool.xor_self,
    Bool.false_xor, and_self]

/-! ### Permutations (R88) -/

/-- R88: the round undone. -/
def crcRoundInv (y : Byte) : Byte :=
  if y.getLsbD 0 = true then 1#1 ++ (y ^^^ 0x07#8).extractLsb' 1 7 else 0#1 ++ y.extractLsb' 1 7

theorem crcRoundInv_crcRound (x : Byte) : crcRoundInv (crcRound x) = x := by
  have hshift : (x <<< 1).extractLsb' 1 7 = x.extractLsb' 0 7 := by
    rw [shiftLeft_one_eq_append]; exact BitVec.extractLsb'_append_eq_left
  have hx : x = BitVec.ofBool x.msb ++ x.extractLsb' 0 7 := by
    exact (BitVec.cons_msb_setWidth x).symm
  have hlow (c : Byte) : (x <<< 1 ^^^ c).getLsbD 0 = c.getLsbD 0 := by simp
  have hpoly : Config.crcPoly.getLsbD 0 = true := by decide
  rw [crcRound_eq_xor, crcRoundInv, hlow]
  cases hmsb : x.msb with
  | true =>
    rw [hmsb] at hx
    rw [if_pos rfl, if_pos hpoly, BitVec.xor_assoc, Config.crcPoly, BitVec.xor_self, BitVec.xor_zero, hshift]
    exact hx.symm
  | false =>
    rw [hmsb] at hx
    rw [if_neg Bool.false_ne_true, if_neg (by decide), BitVec.xor_zero, hshift]
    exact hx.symm

theorem crcRound_injective : Function.Injective crcRound := Function.LeftInverse.injective crcRoundInv_crcRound

theorem crcRound_bijective : Function.Bijective crcRound := Finite.injective_iff_bijective.1 crcRound_injective

theorem crcRound_crcRoundInv (y : Byte) : crcRound (crcRoundInv y) = y := by
  obtain ⟨x, rfl⟩ := crcRound_bijective.surjective y
  rw [crcRoundInv_crcRound]

theorem crcRounds_injective (n : Nat) : Function.Injective (crcRounds n) := by
  induction n with
  | zero => exact Function.injective_id
  | succ n ih => exact ih.comp crcRound_injective

theorem crcByte_injective_right (r : Byte) : Function.Injective (fun b => crcByte r b) :=
  fun _ _ h => (BitVec.xor_right_inj r).1 (crcRounds_injective _ h)

theorem crcByte_injective_left (b : Byte) : Function.Injective (fun r => crcByte r b) :=
  fun _ _ h => (BitVec.xor_left_inj b).1 (crcRounds_injective _ h)

theorem crcFold_injective (m : List Byte) : Function.Injective (fun r => crcFold r m) := by
  induction m with
  | nil => exact Function.injective_id
  | cons b m ih => exact ih.comp (crcByte_injective_left b)

/-- Settles O18: a round has a left inverse and bytes are finite, so it is a bijection; rounds, bytes and messages
compose injections. -/
theorem crcRoundAndByteArePermutations : Obligations.CrcRoundAndByteArePermutations := by
  refine ⟨fun x => ⟨crcRoundInv_crcRound x, crcRound_crcRoundInv x⟩, crcRound_bijective,
    fun r => Finite.injective_iff_bijective.1 (crcByte_injective_right r),
    fun b => Finite.injective_iff_bijective.1 (crcByte_injective_left b), fun p q b b' hne h => hne ?_⟩
  simp only [crc8_append, crcFold_cons] at h
  exact crcByte_injective_right _ (crcFold_injective q h)

/-! ### Zeros (R89, R90) -/

/-- Settles O19: the last byte equals the register, which clears it. -/
theorem absorbingItsOwnChecksumGivesZero : Obligations.AbsorbingItsOwnChecksumGivesZero := by
  intro m
  rw [crc8_concat, crcByte_self]

theorem crcFold_replicate_zero (n : Nat) : crcFold 0x00#8 (List.replicate n 0x00#8) = 0x00#8 := by
  induction n with
  | zero => rfl
  | succ n ih => rw [List.replicate_succ, crcFold_cons, crcByte_self, ih]

/-- Settles O20: the zero bytes leave the register at zero, where the rest of the message starts anyway. -/
theorem leadingZeroBytesAreInvisible : Obligations.LeadingZeroBytesAreInvisible := by
  intro n m
  have hzeros : crc8 (List.replicate n 0x00#8) = 0x00#8 := crcFold_replicate_zero n
  rw [crc8_append, hzeros]
  rfl

end Sys2Proof.Machine
end

section
/-! The arithmetic of a batch (spec/41_oversampling.md R107 to R109): a batch's sum stays within 16 times 1023, every
sum within it is that of some samples, and a larger sum never gives a smaller result. -/

namespace Sys2Proof.Machine

/-- R107: no sample added to a running batch makes `SUM` wrap. -/
theorem addSample_sum_toNat {s : State} (hinv : Inv s) (hb : s.busy = true) (v : Sample) :
    (s.addSample v).sum.toNat = s.sum.toNat + v.toNat := by
  have hcnt := hinv.running hb
  have hsum := hinv.sumBound
  have hv := v.isLt
  rw [State.addSample_sum, BitVec.toNat_add, zext14_toNat, Nat.mod_eq_of_lt]
  omega

/-- Settles O31: at most fifteen samples of at most 1023 are in the sum when another is added. -/
theorem addingASampleNeverWraps : Obligations.AddingASampleNeverWraps := by
  intro s v hinv hb
  have hcnt := hinv.running hb
  have hsum := hinv.sumBound
  have hv := v.isLt
  have hexact := addSample_sum_toNat hinv hb v
  exact ⟨hexact, by omega⟩

/-! ### The range of the result (R108) -/

theorem sum_toNat_eq_max_iff (vs : List Sample) :
    (vs.map BitVec.toNat).sum = vs.length * 1023 ↔ ∀ v ∈ vs, v = 1023#10 := by
  induction vs with
  | nil => simp
  | cons v vs ih =>
    have hv := v.isLt
    have hle := sum_toNat_le vs
    have hmax : v = 1023#10 ↔ v.toNat = 1023 := BitVec.toNat_eq
    rw [List.forall_mem_cons, ← ih, hmax, List.map_cons, List.sum_cons, List.length_cons]
    omega

/-- Every sum up to `n` times 1023 is that of some `n` samples. -/
theorem exists_samples_of_sum (n k : Nat) (hk : k ≤ n * 1023) :
    ∃ vs : List Sample, vs.length = n ∧ (vs.map BitVec.toNat).sum = k := by
  induction n generalizing k with
  | zero => exact ⟨[], rfl, by simp_all⟩
  | succ n ih =>
    obtain ⟨vs, hlen, hsum⟩ := ih (k - min k 1023) (by omega)
    have hv : (BitVec.ofNat 10 (min k 1023)).toNat = min k 1023 := by
      rw [BitVec.toNat_ofNat, Nat.mod_eq_of_lt]
      omega
    refine ⟨BitVec.ofNat 10 (min k 1023) :: vs, by rw [List.length_cons, hlen], ?_⟩
    rw [List.map_cons, List.sum_cons, hv, hsum]
    omega

/-- Settles O32: 4092 needs the largest sum, which needs the largest samples; a result `r` is that of samples with the
sum `4 r`. -/
theorem resultRangesFromZeroTo4092 : Obligations.ResultRangesFromZeroTo4092 := by
  refine ⟨fun vs hlen => ?_, fun r hr => ?_⟩
  · have hle := sum_toNat_le vs
    rw [ovsRes_toNat hlen.le, ← sum_toNat_eq_max_iff]
    omega
  · obtain ⟨vs, hlen, hsum⟩ := exists_samples_of_sum 16 (4 * r) (by omega)
    exact ⟨vs, hlen, by rw [ovsRes_toNat hlen.le, hsum]; omega⟩

/-! ### Identities (R109) -/

/-- R109 (b): a floored quarter is the floor of four times the mean of sixteen. -/
theorem natCast_div_four_eq_floor (k : Nat) : ((k / 4 : Nat) : ℤ) = ⌊4 * ((k : ℚ) / 16)⌋ := by
  have hquarter : 4 * ((k : ℚ) / 16) = (k : ℚ) / (4 : Nat) := by
    push_cast
    ring
  rw [hquarter, ← Int.natCast_floor_eq_floor (by positivity), Nat.floor_div_natCast, Nat.floor_natCast]

theorem abs_div_four_sub_mean_lt (k : Nat) : |((k / 4 : Nat) : ℚ) / 4 - (k : ℚ) / 16| < 1 / 4 := by
  have hk : (4 * (k / 4 : Nat) + (k % 4 : Nat) : ℚ) = k := by exact_mod_cast Nat.div_add_mod k 4
  have hmod : ((k % 4 : Nat) : ℚ) < 4 := by exact_mod_cast Nat.mod_lt k (by decide)
  have hnonneg : (0 : ℚ) ≤ (k % 4 : Nat) := Nat.cast_nonneg _
  rw [abs_lt]
  constructor <;> linarith

/-- R109 (d): sums of samples that are equal as numbers are equal in `SUM`. -/
theorem ovsRes_congr {vs vs' : List Sample} (h : (vs.map BitVec.toNat).sum = (vs'.map BitVec.toNat).sum) :
    ovsRes vs = ovsRes vs' := by
  have hsum : ovsSum vs = ovsSum vs' := BitVec.eq_of_toNat_eq (by rw [ovsSum_toNat_mod, ovsSum_toNat_mod, h])
  rw [ovsRes, ovsRes, hsum]

/-- Settles O33: each identity is one about the sum of the samples, of which the result is the floored quarter. -/
theorem oversamplingIdentities : Obligations.OversamplingIdentities := by
  refine ⟨fun v => ?_, fun vs hlen => ?_, fun p q v v' hlen hle => ?_, fun _ _ _ _ => ovsRes_congr,
    fun vs vs' hperm => ovsRes_congr (hperm.map _).sum_eq⟩
  · rw [ovsRes_toNat (List.length_replicate).le, List.map_replicate, List.sum_replicate, smul_eq_mul]
    omega
  · rw [ovsRes_toNat hlen.le]
    exact ⟨natCast_div_four_eq_floor _, abs_div_four_sub_mean_lt _⟩
  · have hlen' : (p ++ v' :: q).length ≤ 16 := by simpa using hlen.le
    rw [ovsRes_toNat hlen.le, ovsRes_toNat hlen']
    refine Nat.div_le_div_right ?_
    simpa using hle

end Sys2Proof.Machine
end

section
/-! The pins against the step relation (spec/20_memory.md R42 to R46): what an accepted word does, said once for every
word that is no OVS word; then every turn, the host's and the source's alone and the two at one edge, realised at the
pins. -/

namespace Sys2Proof.Machine

/-! ### A word that is no OVS word (R55, R68, R83 to R85) -/

/-- `CRC` after a word that decodes to the given operation, or to none (R68, R83, R84). -/
def crcAfter (c : Byte) : Option Instr → Byte
  | some .crcClr => 0x00#8
  | some (.crcUpd b) => crcByte c b
  | _ => c

/-- The responses of the CRC unit to a word that decodes to the given operation, or to none (R85). -/
def crcResponses (c : Byte) : Option Instr → List Word
  | some .crcGet => [crcResponse c]
  | _ => []

/-- The state after a word that is no OVS word: only the CRC unit and the host's side of the ports change. -/
def State.answer (w : Word) (s : State) : State :=
  { s with
    words := s.words.tail, crc := crcAfter s.crc (instrOf w),
    responses := s.responses ++ crcResponses s.crc (instrOf w) }

theorem instrOf_of_illegal {w : Word} {why : Illegal} (h : decode w = .illegal why) : instrOf w = none := by
  simp [instrOf, h]

/-- R44, R68: a word that is no OVS word is answered in every state. -/
theorem hostTurn_answer {s : State} {w : Word} {ws : List Word} (hw : s.words = w :: ws)
    (hovs : isOvsWord w = false) : hostTurn s = .next (s.answer w) := by
  cases hd : decode w with
  | illegal why =>
    rw [hostTurn_illegal hw hd, State.answer, instrOf_of_illegal hd]
    simp [State.accept, crcAfter, crcResponses]
  | legal i =>
    rw [isOvsWord_of_legal hd] at hovs
    rw [hostTurn_legal hw hd, State.answer, (instrOf_eq_some_iff w i).2 hd]
    cases i with
    | crcClr => simp [exec_crcClr, State.accept, crcAfter, crcResponses]
    | crcUpd b => simp [exec_crcUpd, State.accept, crcAfter, crcResponses]
    | crcGet => rfl
    | ovsRun ch => cases hovs
    | ovsGet => cases hovs

/-! ### Acceptance at the pins, by the decoder (R44) -/

theorem isOvsWord_eq_selects (w : Word) : isOvsWord w = (rowOvsRun.selects w || rowOvsGet.selects w) := by
  rw [Bool.eq_iff_iff, Bool.or_eq_true, rowOvsRun_selects_iff, rowOvsGet_selects_iff, isOvsWord, Option.any_eq_true]
  constructor
  · rintro ⟨i, hi, hovs⟩
    cases i with
    | crcClr => cases hovs
    | crcUpd b => cases hovs
    | crcGet => cases hovs
    | ovsRun ch => exact .inl ⟨ch, hi⟩
    | ovsGet => exact .inr hi
  · rintro (⟨ch, hi⟩ | hi)
    · exact ⟨_, hi, rfl⟩
    · exact ⟨_, hi, rfl⟩

theorem cmdReady_eq (rst busy : Bool) (w : Word) : cmdReady rst busy w = (!rst && !(busy && isOvsWord w)) := by
  rw [cmdReady, isOvsWord_eq_selects]

theorem pinAccepted_eq (r : Regs) (p : PinsIn) :
    pinAccepted r p = (p.cmdValid && !p.rst && !(r.busy && isOvsWord p.cmd)) := by
  rw [pinAccepted, cmdReady_eq, Bool.and_assoc]

/-- R82 (b): the bit equations written on the pins are those of `crcByte`. -/
theorem crcByteBits_eq_crcByte (r b : Byte) : crcByteBits r b = crcByte r b := by
  obtain ⟨-, -, hbits⟩ := crcByteAgreesWithTableAndBitEquations
  obtain ⟨h0, h1, h2, h3, h4, h5, h6, h7⟩ := hbits r b
  apply BitVec.eq_of_getLsbD_eq
  intro i hi
  rw [crcByteBits, BitVec.getLsbD_ofBoolListLE]
  interval_cases i
  · exact h0.symm
  · exact h1.symm
  · exact h2.symm
  · exact h3.symm
  · exact h4.symm
  · exact h5.symm
  · exact h6.symm
  · exact h7.symm

/-- R83, R84: only CRC_CLR and CRC_UPD move `CRC`. -/
theorem crcNext_of_other {r : Regs} {p : PinsIn} (hrst : p.rst = false) (hclr : instrOf p.cmd ≠ some .crcClr)
    (hupd : ∀ b, instrOf p.cmd ≠ some (.crcUpd b)) : crcNext r p = r.crc := by
  simp [crcNext, hrst, rowCrcClr_selects_iff, rowCrcUpd_selects_iff, hclr, hupd]

/-- The next `CRC` is the same whether or not an OVS word on the pins is held. -/
theorem crcNext_eq_crcAfter {r : Regs} {p : PinsIn} (hrst : p.rst = false) :
    crcNext r p = if p.cmdValid = true then crcAfter r.crc (instrOf p.cmd) else r.crc := by
  cases hcv : p.cmdValid with
  | false => exact crcNext_of_not_accepted hrst (by simp [pinAccepted, hcv])
  | true =>
    have hacc : isOvsWord p.cmd = false → pinAccepted r p = true := fun hovs => by
      simp [pinAccepted_eq, hrst, hcv, hovs]
    rw [if_pos rfl]
    cases hi : instrOf p.cmd with
    | none => exact crcNext_of_other hrst (by simp [hi]) (by simp [hi])
    | some i =>
      cases i with
      | crcClr =>
        have hovs : isOvsWord p.cmd = false := by simp [isOvsWord, hi, Instr.isOvs]
        simp [crcNext, hrst, hacc hovs, rowCrcClr_selects_iff, hi, crcAfter]
      | crcUpd b =>
        have hovs : isOvsWord p.cmd = false := by simp [isOvsWord, hi, Instr.isOvs]
        have harg : p.cmd.extractLsb' 0 8 = b := ((instrOf_eq_crcUpd_iff p.cmd b).1 hi).2
        simp [crcNext, hrst, hacc hovs, rowCrcClr_selects_iff, rowCrcUpd_selects_iff, hi, crcAfter, harg,
          crcByteBits_eq_crcByte]
      | crcGet => exact crcNext_of_other hrst (by simp [hi]) (by simp [hi])
      | ovsRun ch => exact crcNext_of_other hrst (by simp [hi]) (by simp [hi])
      | ovsGet => exact crcNext_of_other hrst (by simp [hi]) (by simp [hi])

/-! ### An accepted OVS_RUN at the pins (R102) -/

theorem pinRunValid_eq {p : PinsIn} {ch : Byte} (hi : instrOf p.cmd = some (.ovsRun ch)) :
    pinRunValid p = channelValid ch := by
  obtain ⟨-, harg⟩ := (instrOf_eq_ovsRun_iff p.cmd ch).1 hi
  have hhigh : (p.cmd.extractLsb' 3 5).toNat = ch.toNat / 8 := by
    have hch := ch.isLt
    rw [← harg, BitVec.extractLsb'_toNat, BitVec.extractLsb'_toNat, Nat.shiftRight_eq_div_pow]
    omega
  rw [Bool.eq_iff_iff, channelValid_iff, pinRunValid, beq_iff_eq, BitVec.toNat_eq, hhigh, BitVec.toNat_ofNat]
  omega

theorem extractLsb'_three_of_ovsRun {w : Word} {ch : Byte} (hi : instrOf w = some (.ovsRun ch)) :
    w.extractLsb' 0 3 = channelLatch ch := by
  obtain ⟨-, rfl⟩ := (instrOf_eq_ovsRun_iff w ch).1 hi
  apply BitVec.eq_of_toNat_eq
  simp only [channelLatch, BitVec.extractLsb'_toNat, Nat.shiftRight_zero]
  omega

theorem pinEdge_of_run {r : Regs} {p : PinsIn} {ch : Byte} (hrst : p.rst = false) (hacc : pinAccepted r p = true)
    (hi : instrOf p.cmd = some (.ovsRun ch)) : pinEdge r p =
      { r with sum := 0#14, cnt := cntAfterRun ch, ch := channelLatch ch, busy := busyAfterRun ch } := by
  have hrun : pinRun r p = true := by simp [pinRun, hacc, rowOvsRun_selects_iff, hi]
  have hcrc : crcNext r p = r.crc := crcNext_of_other hrst (by simp [hi]) (by simp [hi])
  simp [pinEdge, hcrc, sumNext, cntNext, chNext, busyNext, hrst, hrun, pinRunValid_eq hi,
    extractLsb'_three_of_ovsRun hi, cntAfterRun, busyAfterRun, Config.ovsCount, Config.ovsBits]

/-! ### The response port, by the decoder (R46) -/

/-- What the host receives at an edge. -/
def pinResponses (r : Regs) (p : PinsIn) : List Word :=
  if (pinOut r p).rspValid = true then [(pinOut r p).rsp] else []

theorem pinResponses_not_accepted {r : Regs} {p : PinsIn} (hacc : pinAccepted r p = false) :
    pinResponses r p = [] := by
  simp [pinResponses, pinOut, pinRspValid, hacc]

theorem pinResponses_ovsGet {r : Regs} {p : PinsIn} (hacc : pinAccepted r p = true)
    (hi : instrOf p.cmd = some .ovsGet) : pinResponses r p = [ovsResponse r.sum] := by
  have hv : pinRspValid r p = true := (pinRspValid_iff r p).2 ⟨hacc, .inr hi⟩
  simp [pinResponses, pinOut, hv, pinRsp_ovsGet hv hi]

theorem pinResponses_crcGet {r : Regs} {p : PinsIn} (hacc : pinAccepted r p = true)
    (hi : instrOf p.cmd = some .crcGet) : pinResponses r p = [crcResponse r.crc] := by
  have hv : pinRspValid r p = true := (pinRspValid_iff r p).2 ⟨hacc, .inl hi⟩
  simp [pinResponses, pinOut, hv, pinRsp_crcGet hv hi]

theorem pinResponses_no_get {r : Regs} {p : PinsIn} (hcrc : instrOf p.cmd ≠ some .crcGet)
    (hovs : instrOf p.cmd ≠ some .ovsGet) : pinResponses r p = [] := by
  have hv : pinRspValid r p = false := by simp [← Bool.not_eq_true, pinRspValid_iff, hcrc, hovs]
  simp [pinResponses, pinOut, hv]

theorem pinResponses_eq_crcResponses {r : Regs} {p : PinsIn} (hacc : pinAccepted r p = true)
    (hovs : isOvsWord p.cmd = false) : pinResponses r p = crcResponses r.crc (instrOf p.cmd) := by
  have hget : instrOf p.cmd ≠ some .ovsGet := fun hi => by simp [isOvsWord, hi, Instr.isOvs] at hovs
  by_cases hi : instrOf p.cmd = some .crcGet
  · rw [pinResponses_crcGet hacc hi, hi]
    rfl
  · rw [pinResponses_no_get hi hget, crcResponses]
    exact hi

end Sys2Proof.Machine
end

section
/-! Every turn realised at the pins (spec/20_memory.md R42; spec/60_exceptions.md R134): the host's turn, the
source's, the edge of both as the one followed by the other, and reset. -/

namespace Sys2Proof.Machine

/-- At an edge with pins `p` the block goes from `s` to `u`: registers, responses, the word taken and the sample taken
are those of the pins. -/
structure EdgeRealised (p : PinsIn) (s u : State) : Prop where
  regs : u.regs = pinEdge s.regs p
  responses : u.responses = s.responses ++ pinResponses s.regs p
  words : u.words = if pinAccepted s.regs p = true then s.words.tail else s.words
  samples : u.samples = if pinDelivered s.regs p = true then s.samples.tail else s.samples

/-- What the host drives on the command pins: its next word, if it has one. -/
def PinsIn.offersHead (p : PinsIn) (s : State) : Prop :=
  p.cmdValid = !s.words.isEmpty ∧ p.cmd = s.words.headD 0#16

/-- What the source drives on the sample pins: its next sample, if it has one. -/
def PinsIn.presentsHead (p : PinsIn) (s : State) : Prop :=
  p.sValid = !s.samples.isEmpty ∧ p.sData = s.samples.headD 0#10

/-- An edge at which nothing is accepted or delivered. -/
theorem EdgeRealised.of_nothing {p : PinsIn} {s : State} (hrst : p.rst = false)
    (hacc : pinAccepted s.regs p = false) (hdel : pinDelivered s.regs p = false) : EdgeRealised p s s where
  regs := by
    have hrun : pinRun s.regs p = false := by simp [pinRun, hacc]
    rw [pinEdge_of_no_delivery hrst hrun hdel, crcNext_of_not_accepted hrst hacc]
  responses := by rw [pinResponses_not_accepted hacc, List.append_nil]
  words := by simp [hacc]
  samples := by simp [hdel]

/-! ### The host's turn -/

theorem pinRun_not_ovs {r : Regs} {p : PinsIn} (hovs : isOvsWord p.cmd = false) : pinRun r p = false := by
  rw [isOvsWord_eq_selects, Bool.or_eq_false_iff] at hovs
  rw [pinRun, hovs.1, Bool.and_false]

theorem EdgeRealised.of_answer {p : PinsIn} {s : State} (hrst : p.rst = false) (hcv : p.cmdValid = true)
    (hovs : isOvsWord p.cmd = false) (hdel : pinDelivered s.regs p = false) :
    EdgeRealised p s (s.answer p.cmd) := by
  have hacc : pinAccepted s.regs p = true := by simp [pinAccepted_eq, hrst, hcv, hovs]
  constructor
  · rw [pinEdge_of_no_delivery hrst (pinRun_not_ovs hovs) hdel, crcNext_eq_crcAfter hrst, if_pos hcv]
    rfl
  · rw [pinResponses_eq_crcResponses hacc hovs]
    rfl
  · rw [if_pos hacc]
    rfl
  · simp [hdel, State.answer]

theorem EdgeRealised.of_run {p : PinsIn} {s : State} {ch : Byte} (hrst : p.rst = false)
    (hacc : pinAccepted s.regs p = true) (hdel : pinDelivered s.regs p = false)
    (hi : instrOf p.cmd = some (.ovsRun ch)) : EdgeRealised p s (s.accept.startBatch ch) := by
  constructor
  · rw [pinEdge_of_run hrst hacc hi]
    rfl
  · rw [pinResponses_no_get (by simp [hi]) (by simp [hi]), List.append_nil]
    rfl
  · rw [if_pos hacc]
    rfl
  · simp [hdel]

theorem EdgeRealised.of_get {p : PinsIn} {s : State} (hrst : p.rst = false)
    (hacc : pinAccepted s.regs p = true) (hdel : pinDelivered s.regs p = false)
    (hi : instrOf p.cmd = some .ovsGet) : EdgeRealised p s (s.accept.respond (ovsResponse s.sum)) := by
  have hrun : pinRun s.regs p = false := by simp [pinRun, ← Bool.not_eq_true, rowOvsRun_selects_iff, hi]
  constructor
  · rw [pinEdge_of_no_delivery hrst hrun hdel, crcNext_of_other hrst (by simp [hi]) (by simp [hi])]
    rfl
  · rw [pinResponses_ovsGet hacc hi]
    rfl
  · rw [if_pos hacc]
    rfl
  · simp [hdel]

theorem hostTurn_realised {p : PinsIn} {s u : State} (hrst : p.rst = false) (hoffer : p.offersHead s)
    (hdel : pinDelivered s.regs p = false) (h : hostTurn s = .next u) : EdgeRealised p s u := by
  obtain ⟨hcv, hcmd⟩ := hoffer
  cases hw : s.words with
  | nil =>
    rw [hostTurn_nil hw] at h
    cases h
    exact .of_nothing hrst (by simp [pinAccepted, hcv, hw]) hdel
  | cons w ws =>
    rw [hw] at hcv hcmd
    obtain rfl : p.cmd = w := hcmd
    cases hovs : isOvsWord p.cmd with
    | false =>
      rw [hostTurn_answer hw hovs] at h
      cases h
      exact .of_answer hrst hcv hovs hdel
    | true =>
      cases hb : s.busy with
      | true =>
        rw [hostTurn_held hw hb hovs] at h
        cases h
        exact .of_nothing hrst (by simp [pinAccepted_eq, State.regs, hb, hovs]) hdel
      | false =>
        have hacc : pinAccepted s.regs p = true := by simp [pinAccepted_eq, State.regs, hrst, hcv, hb]
        obtain ⟨i, hd, hi⟩ := (isOvsWord_iff p.cmd).1 hovs
        rw [hostTurn_legal hw hd] at h
        rw [← instrOf_eq_some_iff] at hd
        obtain ⟨rfl, -⟩ | ⟨b, rfl, -⟩ | ⟨rfl, -⟩ | ⟨ch, rfl, -, rfl⟩ | ⟨rfl, -, rfl⟩ | ⟨-, hrun, -⟩ := exec_cases h
        · cases hi
        · cases hi
        · cases hi
        · exact .of_run hrst hacc hdel hd
        · exact .of_get hrst hacc hdel hd
        · simp [hb] at hrun

/-! ### The source's turn -/

theorem regs_addSample {s : State} (hb : s.busy = true) (v : Sample) :
    (s.addSample v).regs = s.regs.deliver v := by
  have hzext : zext14 v = 0#4 ++ v := BitVec.setWidth_eq_append (by decide)
  have hbusy : busyAfterSample s.cnt s.busy = (s.cnt != 15#5) := by
    rw [hb, busyAfterSample_true, bne, beq_eq_decide, decide_not]
  simp only [State.regs, State.addSample, Regs.deliver, cntAfterSample, hzext, hbusy]

theorem sourceTurn_realised {p : PinsIn} {s : State} (hrst : p.rst = false) (hpres : p.presentsHead s)
    (hcv : p.cmdValid = false) : EdgeRealised p s s.sourceTurn := by
  obtain ⟨hsv, hsd⟩ := hpres
  have hacc : pinAccepted s.regs p = false := by simp [pinAccepted, hcv]
  obtain ⟨hnone, hsame⟩ | ⟨v, vs, hb, hs, hdelivered⟩ := sourceTurn_cases s
  · rw [hsame]
    refine .of_nothing hrst hacc ?_
    obtain hb | hs := hnone
    · exact pinDelivered_idle hb p
    · simp [pinDelivered, hsv, hs]
  · rw [hs] at hsv hsd
    obtain rfl : p.sData = v := hsd
    have hdel : pinDelivered s.regs p = true := (pinDelivered_iff _ _).2 ⟨hrst, hb, hsv⟩
    rw [hdelivered]
    constructor
    · rw [pinEdge_of_delivery_alone hacc hdel]
      exact regs_addSample (s := { s with samples := vs }) hb p.sData
    · rw [pinResponses_not_accepted hacc, List.append_nil]
      rfl
    · simp [hacc]
    · simp [hdel, hs]

/-! ### The edge of both (R134, R153) -/

/-- A command realised without the source's pins and then a delivery realised without the host's are the edge of both,
while a batch runs. -/
theorem EdgeRealised.both {p : PinsIn} {s u v : State} (hdel : pinDelivered s.regs p = true)
    (hcommand : EdgeRealised { p with sValid := false } s u)
    (hdelivery : EdgeRealised { p with cmdValid := false } u v) : EdgeRealised p s v := by
  obtain ⟨hrst, hb, hsv⟩ := (pinDelivered_iff s.regs p).1 hdel
  have hacc : pinAccepted u.regs { p with cmdValid := false } = false := rfl
  have hbu : u.regs.busy = true := by
    rw [hcommand.regs]
    exact pinEdge_busy_of_no_sample hb hrst rfl
  have hdelu : pinDelivered u.regs { p with cmdValid := false } = true := (pinDelivered_iff _ _).2 ⟨hrst, hbu, hsv⟩
  have hsamples : u.samples = s.samples := by simp [hcommand.samples, pinDelivered]
  constructor
  · rw [hdelivery.regs, hcommand.regs, pinEdge_command_then_delivery hdel]
  · rw [hdelivery.responses, pinResponses_not_accepted hacc, List.append_nil, hcommand.responses]
    rfl
  · rw [hdelivery.words, hacc, if_neg Bool.false_ne_true, hcommand.words]
    rfl
  · rw [hdelivery.samples, hdelu, hdel, hsamples]

theorem EdgeRealised.ignore_source {p : PinsIn} {s u : State} (hb : s.busy = false)
    (h : EdgeRealised { p with sValid := false } s u) : EdgeRealised p s u where
  regs := by
    rw [h.regs]
    exact pinEdge_idle_ignores_source (r := s.regs) hb p false p.sData
  responses := h.responses
  words := h.words
  samples := by
    rw [h.samples, pinDelivered_idle hb, pinDelivered_idle hb]

theorem bothTurn_realised {p : PinsIn} {s u : State} (hrst : p.rst = false) (hoffer : p.offersHead s)
    (hpres : p.presentsHead s) (h : bothTurn s = .next u) : EdgeRealised p s u := by
  cases hb : s.busy with
  | false =>
    rw [bothTurn_idle hb] at h
    exact .ignore_source hb (hostTurn_realised hrst hoffer (by simp [pinDelivered]) h)
  | true =>
    obtain ⟨t, hhost, rfl⟩ := bothTurn_running_next hb h
    have hsamples := (hostTurn_frame hhost).1
    cases hs : s.samples with
    | nil =>
      rw [sourceTurn_empty (hsamples.trans hs)]
      exact hostTurn_realised hrst hoffer (by simp [pinDelivered, hpres.1, hs]) hhost
    | cons v vs =>
      have hdel : pinDelivered s.regs p = true := (pinDelivered_iff _ _).2 ⟨hrst, hb, by simp [hpres.1, hs]⟩
      refine .both hdel (hostTurn_realised hrst hoffer (by simp [pinDelivered]) hhost)
        (sourceTurn_realised hrst ?_ rfl)
      rw [PinsIn.presentsHead, hsamples]
      exact hpres

/-! ### Every turn -/

/-- R42: a step without reset is the edge with the pins of its turn. -/
theorem step_realised {s u : State} {t : Turn} {ts : List Turn} (ht : s.turns = t :: ts) (hrst : t.isReset = false)
    (h : step s = .next u) : EdgeRealised (s.pins t) s u := by
  rw [step_turn ht] at h
  suffices hedge : EdgeRealised (s.pins t) { s with turns := ts } u from
    ⟨hedge.regs, hedge.responses, hedge.words, hedge.samples⟩
  cases t with
  | host => exact hostTurn_realised rfl ⟨rfl, rfl⟩ (by simp [pinDelivered, State.pins]) h
  | source =>
    cases h
    exact sourceTurn_realised rfl ⟨rfl, rfl⟩ rfl
  | both => exact bothTurn_realised rfl ⟨rfl, rfl⟩ ⟨rfl, rfl⟩ h
  | reset keeps => cases hrst

/-- Settles O48: a step without reset by its agents, the edge of both as the command followed by the delivery; at a
reset edge the pins accept and deliver nothing. -/
theorem pinsRealiseTheStepRelation : Obligations.PinsRealiseTheStepRelation := by
  intro s t ts ht
  obtain ⟨u, hu⟩ := step_next s
  refine ⟨u, hu, by rw [step_turns hu, ht, List.tail_cons], ?_⟩
  cases hrst : t.isReset with
  | false =>
    obtain ⟨hregs, hresponses, hwords, hsamples⟩ := step_realised ht hrst hu
    have hnot : t ≠ .reset false := by rintro rfl; cases hrst
    exact ⟨hregs, hresponses, by simpa [hnot] using hwords, hsamples⟩
  | true =>
    obtain ⟨keeps, rfl⟩ : ∃ keeps, t = .reset keeps := by cases t <;> simp_all [Turn.isReset]
    have hpin : (s.pins (.reset keeps)).rst = true := rfl
    rw [step_reset ht] at hu
    cases hu
    refine ⟨(pinEdge_reset hpin _).symm, ?_, ?_, ?_⟩
    · simp [pinOut, pinRspValid_reset hpin]
    · cases keeps <;> simp [pinAccepted_reset hpin]
    · simp [pinDelivered_reset hpin]

end Sys2Proof.Machine
end

section
/-! What every step keeps (spec/10_state.md R20, R26, R31; spec/41_oversampling.md R105, R110, R112): the invariants
by the cases of a step; the state machine of the OVS unit, the taking of words and samples and the independence of the
units from the pins that realise the step. -/

namespace Sys2Proof.Machine

/-! ### The invariants (R31) -/

/-- R31 speaks of three registers. -/
theorem Inv.congr {s t : State} (hinv : Inv s) (hsum : t.sum = s.sum) (hcnt : t.cnt = s.cnt)
    (hbusy : t.busy = s.busy) : Inv t where
  running := by rw [hbusy, hcnt]; exact hinv.running
  atRest := by rw [hbusy, hcnt]; exact hinv.atRest
  sumBound := by rw [hsum, hcnt]; exact hinv.sumBound
  cntBound := by rw [hcnt]; exact hinv.cntBound

/-- The registers right after reset or at the start of a batch meet R31: nothing summed, nothing counted. -/
theorem inv_of_zero {s : State} (hsum : s.sum = 0#14) (hcnt : s.cnt = 0#5) : Inv s := by
  have hzero : s.cnt.toNat = 0 := by rw [hcnt]; rfl
  constructor
  · exact fun _ => by omega
  · exact fun _ => .inl hzero
  · rw [hsum]
    exact Nat.zero_le _
  · omega

theorem inv_startBatch (ch : Byte) (s : State) : Inv (s.startBatch ch) := by
  by_cases hch : ch.toNat < 8
  · exact inv_of_zero rfl (cntAfterRun_valid hch)
  · have hinvalid : 8 ≤ ch.toNat := Nat.le_of_not_lt hch
    have hcnt : (s.startBatch ch).cnt.toNat = 16 := by rw [State.startBatch_cnt, cntAfterRun_invalid hinvalid]; rfl
    have hbusy : (s.startBatch ch).busy = false := busyAfterRun_invalid hinvalid
    constructor
    · exact fun hrun => absurd (hbusy.symm.trans hrun) Bool.false_ne_true
    · exact fun _ => .inr hcnt
    · exact Nat.zero_le _
    · exact hcnt.le

theorem inv_addSample {s : State} (hinv : Inv s) (hb : s.busy = true) (v : Sample) : Inv (s.addSample v) := by
  have hrun := hinv.running hb
  have hbound := hinv.sumBound
  have hv := v.isLt
  have hsum := addSample_sum_toNat hinv hb v
  have hcnt : (s.addSample v).cnt.toNat = s.cnt.toNat + 1 := cntAfterSample_toNat s.cnt hrun
  have hlast : s.cnt = 15#5 ↔ s.cnt.toNat = 15 := BitVec.toNat_eq
  have hbusy : (s.addSample v).busy = true ↔ ¬ s.cnt.toNat = 15 := by
    rw [State.addSample_busy, hb, busyAfterSample_true, decide_eq_true_iff, Ne, hlast]
  constructor
  · rw [hbusy]
    omega
  · rw [← Bool.not_eq_true, hbusy]
    omega
  · omega
  · omega

theorem inv_hostTurn {s t : State} (hinv : Inv s) (h : hostTurn s = .next t) : Inv t := by
  obtain ⟨-, rfl⟩ | ⟨w, ws, why, -, -, rfl⟩ | ⟨w, ws, i, -, -, hexec⟩ := hostTurn_cases h
  · exact hinv
  · exact hinv.congr rfl rfl rfl
  · obtain ⟨-, rfl⟩ | ⟨b, -, rfl⟩ | ⟨-, rfl⟩ | ⟨ch, -, -, rfl⟩ | ⟨-, -, rfl⟩ | ⟨-, -, rfl⟩ := exec_cases hexec
    · exact hinv.congr rfl rfl rfl
    · exact hinv.congr rfl rfl rfl
    · exact hinv.congr rfl rfl rfl
    · exact inv_startBatch ch _
    · exact hinv.congr rfl rfl rfl
    · exact hinv

theorem inv_sourceTurn {s : State} (hinv : Inv s) : Inv s.sourceTurn := by
  obtain ⟨-, hsame⟩ | ⟨v, vs, hb, -, hdelivered⟩ := sourceTurn_cases s
  · rwa [hsame]
  · rw [hdelivered]
    exact inv_addSample (s := { s with samples := vs }) (hinv.congr rfl rfl rfl) hb v

/-- Settles O39: OVS_RUN and reset start from nothing summed, a delivery adds one to the count and at most 1023 to the
sum, and nothing else touches the three registers. -/
theorem everyStepKeepsTheInvariants : Obligations.EveryStepKeepsTheInvariants := by
  intro s t hinv h
  have hturn (ts : List Turn) : Inv { s with turns := ts } := hinv.congr rfl rfl rfl
  obtain ⟨-, rfl⟩ | ⟨ts, -, hhost⟩ | ⟨ts, -, rfl⟩ | ⟨ts, -, -, hhost⟩ | ⟨ts, u, -, -, hhost, rfl⟩ |
    ⟨keeps, ts, -, rfl⟩ := step_cases h
  · exact hinv
  · exact inv_hostTurn (hturn ts) hhost
  · exact inv_sourceTurn (hturn ts)
  · exact inv_hostTurn (hturn ts) hhost
  · exact inv_sourceTurn (inv_hostTurn (hturn ts) hhost)
  · exact inv_of_zero rfl rfl

/-- Settles O38: the reset registers are zero, and a launch state has them. -/
theorem invariantsHoldAtReset : Obligations.InvariantsHoldAtReset :=
  ⟨inv_of_zero rfl rfl, fun _ _ _ => inv_of_zero rfl rfl⟩

/-! ### A step as an edge, whoever acts -/

/-- Settles O11: every operation and every turn has its next state. -/
theorem everyStepAnswersANextState : Obligations.EveryStepAnswersANextState := ⟨step_next, exec_next⟩

/-- The pins at the next edge; with no turn to come all are low. -/
def State.edgePins (s : State) : PinsIn :=
  match s.turns with
  | [] => { rst := false, cmdValid := false, cmd := 0#16, sValid := false, sData := 0#10 }
  | t :: _ => s.pins t

theorem edgePins_rst (s : State) : s.edgePins.rst = s.resetNow := by
  rw [State.edgePins, State.resetNow]
  cases s.turns with
  | nil => rfl
  | cons t ts => cases t <;> rfl

theorem offered_eq_edgePins {s : State} (hrst : s.resetNow = false) :
    s.offered = if s.edgePins.cmdValid = true then some s.edgePins.cmd else none := by
  rw [State.resetNow] at hrst
  rw [State.offered, State.edgePins]
  cases ht : s.turns with
  | nil => rfl
  | cons t ts =>
    cases t with
    | source => rfl
    | host => cases hw : s.words <;> simp [State.pins, Turn.hostActs, hw]
    | both => cases hw : s.words <;> simp [State.pins, Turn.hostActs, hw]
    | reset keeps => simp [ht, Turn.isReset] at hrst

theorem presented_eq_edgePins {s : State} (hrst : s.resetNow = false) :
    s.presented = if s.edgePins.sValid = true then some s.edgePins.sData else none := by
  rw [State.resetNow] at hrst
  rw [State.presented, State.edgePins]
  cases ht : s.turns with
  | nil => rfl
  | cons t ts =>
    cases t with
    | host => rfl
    | source => cases hs : s.samples <;> simp [State.pins, Turn.sourceActs, hs]
    | both => cases hs : s.samples <;> simp [State.pins, Turn.sourceActs, hs]
    | reset keeps => simp [ht, Turn.isReset] at hrst

theorem step_edge {s t : State} (h : step s = .next t) (hrst : s.resetNow = false) :
    EdgeRealised s.edgePins s t := by
  cases ht : s.turns with
  | nil =>
    rw [step_noTurn ht] at h
    cases h
    exact .of_nothing (by rw [edgePins_rst, hrst]) (by simp [State.edgePins, ht, pinAccepted])
      (by simp [State.edgePins, ht, pinDelivered])
  | cons a ts =>
    have hpins : s.edgePins = s.pins a := by rw [State.edgePins, ht]
    rw [resetNow_of_turn ht] at hrst
    exact hpins ▸ step_realised ht hrst h

theorem step_resetNow {s t : State} (h : step s = .next t) (hrst : s.resetNow = true) :
    ∃ keeps ts, s.turns = .reset keeps :: ts ∧ t = (({ s with turns := ts } : State).hostAtReset keeps).stepReset := by
  cases ht : s.turns with
  | nil => simp [resetNow_noTurn ht] at hrst
  | cons a ts =>
    rw [resetNow_of_turn ht] at hrst
    cases a with
    | host => cases hrst
    | source => cases hrst
    | both => cases hrst
    | reset keeps =>
      rw [step_reset ht] at h
      cases h
      exact ⟨keeps, ts, rfl, rfl⟩

/-! ### What a step takes (R43, R46, R54) -/

/-- Settles O12: away from reset a word is taken only when accepted and a sample only when delivered, as at the pins. -/
theorem stepTakesAtMostTheOfferedWordAndTheNextSample :
    Obligations.StepTakesAtMostTheOfferedWordAndTheNextSample := by
  intro s t h
  have hturns := step_turns h
  cases hrst : s.resetNow with
  | true =>
    obtain ⟨keeps, ts, -, rfl⟩ := step_resetNow h hrst
    refine ⟨?_, .inl (by simp), .inl (by simp), hturns⟩
    cases keeps with
    | true => exact .inl rfl
    | false => exact .inr ⟨rfl, .inr rfl⟩
  | false =>
    have hedge := step_edge h hrst
    refine ⟨?_, ?_, ?_, hturns⟩
    · rw [hedge.words]
      split_ifs with hacc
      · have hcv : s.edgePins.cmdValid = true := by simp_all [pinAccepted]
        exact .inr ⟨rfl, .inl (by simp [offered_eq_edgePins hrst, hcv])⟩
      · exact .inl rfl
    · rw [hedge.samples]
      split_ifs with hdel
      · obtain ⟨-, hb, hsv⟩ := (pinDelivered_iff _ _).1 hdel
        exact .inr ⟨rfl, hb, by simp [presented_eq_edgePins hrst, hsv]⟩
      · exact .inl rfl
    · rw [hedge.responses, pinResponses]
      split_ifs
      · exact .inr ⟨_, rfl⟩
      · exact .inl (List.append_nil _)

/-! ### The OVS unit's state machine (R105) -/

/-- The registers of the OVS unit. -/
def Regs.ovs (r : Regs) : SumWord × CntWord × Channel × Bool := (r.sum, r.cnt, r.ch, r.busy)

theorem step_ovs_waiting {s t : State} (h : step s = .next t) (hrst : s.resetNow = false) (hb : s.busy = true)
    (hp : s.presented = none) : t.regs.ovs = s.regs.ovs := by
  have hpin : s.edgePins.rst = false := by rw [edgePins_rst, hrst]
  have hsv : s.edgePins.sValid = false := by simpa [presented_eq_edgePins hrst] using hp
  rw [(step_edge h hrst).regs, pinEdge_of_no_delivery hpin (pinRun_running hb _) (by simp [pinDelivered, hsv])]
  rfl

theorem step_ovs_delivery {s t : State} {v : Sample} (h : step s = .next t) (hrst : s.resetNow = false)
    (hb : s.busy = true) (hp : s.presented = some v) :
    t.regs.ovs = (s.sum + v.setWidth 14, s.cnt + 1#5, s.ch, decide (s.cnt ≠ 15#5)) := by
  have hpin : s.edgePins.rst = false := by rw [edgePins_rst, hrst]
  obtain ⟨hsv, rfl⟩ : s.edgePins.sValid = true ∧ s.edgePins.sData = v := by
    simpa [presented_eq_edgePins hrst] using hp
  have hzext : s.edgePins.sData.setWidth 14 = 0#4 ++ s.edgePins.sData := BitVec.setWidth_eq_append (by decide)
  have hlast : (s.cnt != 15#5) = decide (s.cnt ≠ 15#5) := by rw [bne, beq_eq_decide, decide_not]
  rw [(step_edge h hrst).regs, pinEdge_of_delivery ((pinDelivered_iff _ _).2 ⟨hpin, hb, hsv⟩), hzext, ← hlast]
  rfl

theorem step_ovs_idle_run {s t : State} {ch : Byte} (h : step s = .next t) (hrst : s.resetNow = false)
    (hb : s.busy = false) (hi : s.offered.bind instrOf = some (.ovsRun ch)) :
    t.regs.ovs = (0#14, if ch.toNat < 8 then 0#5 else 16#5, channelLatch ch, busyAfterRun ch) := by
  have hpin : s.edgePins.rst = false := by rw [edgePins_rst, hrst]
  rw [offered_eq_edgePins hrst] at hi
  cases hcv : s.edgePins.cmdValid with
  | false => simp [hcv] at hi
  | true =>
    have hacc : pinAccepted s.regs s.edgePins = true := by simp [pinAccepted_eq, hcv, hpin, State.regs, hb]
    rw [(step_edge h hrst).regs, pinEdge_of_run hpin hacc (by simpa [hcv] using hi), cntAfterRun_eq_ite]
    rfl

theorem step_ovs_idle_other {s t : State} (h : step s = .next t) (hrst : s.resetNow = false)
    (hb : s.busy = false) (hi : ∀ ch, s.offered.bind instrOf ≠ some (.ovsRun ch)) : t.regs.ovs = s.regs.ovs := by
  have hpin : s.edgePins.rst = false := by rw [edgePins_rst, hrst]
  have hrun : pinRun s.regs s.edgePins = false := by
    rw [← Bool.not_eq_true, pinRun, pinAccepted, Bool.and_eq_true, Bool.and_eq_true, rowOvsRun_selects_iff]
    rintro ⟨⟨hcv, -⟩, ch, hch⟩
    exact hi ch (by simpa [offered_eq_edgePins hrst, hcv] using hch)
  rw [(step_edge h hrst).regs, pinEdge_of_no_delivery hpin hrun (pinDelivered_idle hb _)]
  rfl

/-- Settles O40: one lemma for each way the unit can move, read from the pins. -/
theorem ovsUnitMovesAsItsStateMachine : Obligations.OvsUnitMovesAsItsStateMachine := by
  refine ⟨fun s t h => ?_, fun s hinv => ⟨hinv.running, fun hb => ?_⟩⟩
  · cases hrst : s.resetNow with
    | true =>
      obtain ⟨keeps, ts, -, rfl⟩ := step_resetNow h hrst
      rfl
    | false =>
      cases hb : s.busy with
      | true =>
        rw [if_neg Bool.false_ne_true, if_pos rfl]
        cases hp : s.presented with
        | none => exact hb ▸ step_ovs_waiting h hrst hb hp
        | some v => exact step_ovs_delivery h hrst hb hp
      | false =>
        have hother (hi : ∀ ch, s.offered.bind instrOf ≠ some (.ovsRun ch)) :
            (t.sum, t.cnt, t.ch, t.busy) = (s.sum, s.cnt, s.ch, false) :=
          hb ▸ step_ovs_idle_other h hrst hb hi
        rw [if_neg Bool.false_ne_true, if_neg Bool.false_ne_true]
        cases hi : s.offered.bind instrOf with
        | none => exact hother (by simp [hi])
        | some i =>
          cases i with
          | ovsRun ch => exact step_ovs_idle_run h hrst hb hi
          | crcClr => exact hother (by simp [hi])
          | crcUpd b => exact hother (by simp [hi])
          | crcGet => exact hother (by simp [hi])
          | ovsGet => exact hother (by simp [hi])
  · have hzero : s.cnt = 0#5 ↔ s.cnt.toNat = 0 := BitVec.toNat_eq
    have hfull : s.cnt = 16#5 ↔ s.cnt.toNat = 16 := BitVec.toNat_eq
    rw [hzero, hfull]
    exact hinv.atRest hb

/-- Settles O41: at the pins a running batch keeps its channel, and only the delivery from 15 to 16 ends it. -/
theorem channelIsConstantWhileABatchRuns : Obligations.ChannelIsConstantWhileABatchRuns := by
  intro s t _ h hb hrst
  have hch : t.ch = s.ch := by
    have hregs := congrArg Regs.ch (step_edge h hrst).regs
    rwa [pinEdge_ch_running hb (by rw [edgePins_rst, hrst])] at hregs
  refine ⟨hch, fun _ => hch, ?_⟩
  cases htb : t.busy with
  | true => exact .inl rfl
  | false =>
    obtain hreset | ⟨-, hcnt⟩ := step_batch_end h hb htb
    · simp [hrst] at hreset
    · exact .inr hcnt

/-! ### The two units (R20) -/

/-- What the CRC unit does depends on `CRC` and the offered word alone. -/
theorem step_crc {s t : State} (h : step s = .next t) :
    t.crc = if s.resetNow = true then 0x00#8 else s.offered.elim s.crc fun w => crcAfter s.crc (instrOf w) := by
  cases hrst : s.resetNow with
  | true =>
    obtain ⟨keeps, ts, -, rfl⟩ := step_resetNow h hrst
    rfl
  | false =>
    have hregs : t.crc = crcNext s.regs s.edgePins := congrArg Regs.crc (step_edge h hrst).regs
    rw [hregs, crcNext_eq_crcAfter (by rw [edgePins_rst, hrst]), offered_eq_edgePins hrst]
    cases s.edgePins.cmdValid <;> rfl

/-- What the OVS unit and the ports do depends on nothing in `CRC` and the responses. -/
theorem step_of_other_crc {s t u : State} {c : Byte} {rs : List Word} (h : step s = .next t)
    (hother : step { s with crc := c, responses := rs } = .next u) :
    u.regs.ovs = t.regs.ovs ∧ u.words = t.words ∧ u.samples = t.samples := by
  cases hrst : s.resetNow with
  | true =>
    obtain ⟨keeps, ts, hturns, rfl⟩ := step_resetNow h hrst
    have hreset := step_reset (s := { s with crc := c, responses := rs }) hturns
    obtain rfl := Host.Outcome.next.inj (hother.symm.trans hreset)
    cases keeps <;> exact ⟨rfl, rfl, rfl⟩
  | false =>
    have hedge := step_edge h hrst
    have hedge' : EdgeRealised s.edgePins { s with crc := c, responses := rs } u := step_edge hother hrst
    refine ⟨?_, hedge'.words.trans hedge.words.symm, hedge'.samples.trans hedge.samples.symm⟩
    rw [hedge.regs, hedge'.regs]
    rfl

theorem exec_other_unit {i : Instr} {s t : State} (h : exec i s = .next t) :
    if i.isOvs = true then t.crc = s.crc else t.regs.ovs = s.regs.ovs := by
  obtain ⟨rfl, rfl⟩ | ⟨b, rfl, rfl⟩ | ⟨rfl, rfl⟩ | ⟨ch, rfl, -, rfl⟩ | ⟨rfl, -, rfl⟩ | ⟨hovs, -, rfl⟩ := exec_cases h
  · rfl
  · rfl
  · rfl
  · rfl
  · rfl
  · rw [if_pos hovs]

theorem sourceTurn_frame (s : State) :
    s.sourceTurn.crc = s.crc ∧ s.sourceTurn.words = s.words ∧ s.sourceTurn.responses = s.responses := by
  obtain ⟨-, hsame⟩ | ⟨v, vs, -, -, hdelivered⟩ := sourceTurn_cases s
  · rw [hsame]
    exact ⟨rfl, rfl, rfl⟩
  · rw [hdelivered]
    exact ⟨rfl, rfl, rfl⟩

/-- Settles O42: the pins' next values of the OVS registers do not read `CRC`, nor does `CRC` read them; the write
frames by the cases of an operation and of the source's turn. -/
theorem unitsDoNotInterfere : Obligations.UnitsDoNotInterfere := by
  refine ⟨fun s c rs t u h hother => ?_, fun s s' t t' hcrc hw hts h h' => ?_, fun i s t => exec_other_unit,
    fun s => (sourceTurn_frame s).1⟩
  · obtain ⟨hovs, hwords, hsamples⟩ := step_of_other_crc h hother
    simp only [Regs.ovs, Prod.mk.injEq] at hovs ⊢
    obtain ⟨hsum, hcnt, hch, hbusy⟩ := hovs
    exact ⟨hsum, hcnt, hch, hbusy, hwords, hsamples, (step_turns hother).trans (step_turns h).symm⟩
  · have hreset : s.resetNow = s'.resetNow := by rw [State.resetNow, State.resetNow, hts]
    have hoffered : s.offered = s'.offered := by rw [State.offered, State.offered, hts, hw]
    rw [step_crc h, step_crc h', hreset, hoffered, hcrc]

end Sys2Proof.Machine
end

section
/-! Single steps of the host (spec/20_memory.md R43; spec/30_encoding.md R66; spec/41_oversampling.md R112): the decoded
operation is performed, a held word makes no difference to an edge, and a stuck source holds it for ever. -/

namespace Sys2Proof.Machine

theorem decode_encode (i : Instr) : decode (encode i) = .legal i := (decode_legal_iff_encode _ i).2 rfl

theorem isOvsWord_encode (i : Instr) : isOvsWord (encode i) = i.isOvs := isOvsWord_of_legal (decode_encode i)

theorem step_host_legal {s : State} {w : Word} {ws : List Word} {ts : List Turn} {i : Instr}
    (ht : s.turns = .host :: ts) (hw : s.words = w :: ws) (hd : decode w = .legal i) :
    step s = exec i { s with turns := ts } :=
  (step_host ht).trans (hostTurn_legal hw hd)

theorem step_both_idle {s : State} {ts : List Turn} (ht : s.turns = .both :: ts) (hb : s.busy = false) :
    step s = hostTurn { s with turns := ts } :=
  (step_turn ht).trans (bothTurn_idle hb)

theorem withFetchWord_encode (s : State) (i : Instr) :
    s.withFetchWord 16 (encode i).toNat = s.offerNext (encode i) := by
  rw [State.withFetchWord, Nat.mod_eq_of_lt (encode i).isLt, BitVec.ofNat_toNat, BitVec.setWidth_eq]

/-- Settles O8: the host's turn is the decoded operation, and at the edge of both the delivery follows it while a batch
runs. -/
theorem stepPerformsTheDecodedInstruction : Obligations.StepPerformsTheDecodedInstruction := by
  refine ⟨fun s w ws ts i ht hw hd => step_host_legal ht hw hd, fun s w ws ts i ht hw hd => ?_, fun s i => ?_⟩
  · have hhost : hostTurn { s with turns := ts } = exec i { s with turns := ts } := hostTurn_legal hw hd
    refine ⟨fun hb => (step_both_idle ht hb).trans hhost, fun hb => ?_⟩
    obtain ⟨t, hexec⟩ := exec_next i { s with turns := ts }
    exact ⟨t, hexec, step_both_running ht hb (hhost.trans hexec)⟩
  · rw [withFetchWord_encode]
    exact step_host_legal rfl rfl (decode_encode i)

/-- Settles O13: with no turn the step is the identity, and a host without a word offers nothing. -/
theorem noAgentActingChangesNothing : Obligations.NoAgentActingChangesNothing :=
  ⟨fun _ => step_noTurn, fun _ _ ht hw => (step_host ht).trans (hostTurn_nil hw)⟩

/-! ### A held word at the pins (R43) -/

theorem pinAccepted_iff (r : Regs) (p : PinsIn) :
    pinAccepted r p = true ↔ p.rst = false ∧ p.cmdValid = true ∧ cmdReady p.rst r.busy p.cmd = true := by
  cases hrst : p.rst <;> simp [pinAccepted, cmdReady_eq, hrst]

theorem pinHeld_iff (r : Regs) (p : PinsIn) :
    pinHeld r p = true ↔ p.rst = false ∧ p.cmdValid = true ∧ cmdReady p.rst r.busy p.cmd = false := by
  simp [pinHeld, and_assoc]

/-- R44: a held word is an OVS word offered while a batch runs. -/
theorem pinHeld_iff_ovs (r : Regs) (p : PinsIn) :
    pinHeld r p = true ↔ p.rst = false ∧ p.cmdValid = true ∧ r.busy = true ∧ isOvsWord p.cmd = true := by
  rw [pinHeld_iff, cmdReady_eq]
  cases p.rst <;> simp

theorem pinAccepted_of_held {r : Regs} {p : PinsIn} (h : pinHeld r p = true) : pinAccepted r p = false := by
  obtain ⟨-, -, hready⟩ := (pinHeld_iff r p).1 h
  rw [pinAccepted, hready, Bool.and_false]

/-- The command pins act on the registers through the acceptance alone. -/
theorem pinEdge_not_accepted {r : Regs} {p : PinsIn} (hacc : pinAccepted r p = false) :
    pinEdge r p = pinEdge r { p with cmdValid := false } := by
  have hacc' : pinAccepted r { p with cmdValid := false } = false := rfl
  have hdel : pinDelivered r { p with cmdValid := false } = pinDelivered r p := rfl
  simp [pinEdge, crcNext, sumNext, cntNext, chNext, busyNext, pinRun, hacc, hacc', hdel]

/-- U6: the host that keeps a held word, with no reset, drives it again. -/
theorem hostKeepsHeldWord_iff {r : Regs} {p p' : PinsIn} (hheld : pinHeld r p = true) (hrst : p'.rst = false) :
    hostKeepsHeldWord r p p' = true ↔ p'.cmdValid = true ∧ p'.cmd = p.cmd := by
  simp [hostKeepsHeldWord, hheld, hrst]

theorem pinEdges_cons_cons (r : Regs) (p p' : PinsIn) (ps : List PinsIn) : pinEdges r (p :: p' :: ps) =
    if hostKeepsHeldWord r p p' = true then pinEdges (pinEdge r p) (p' :: ps) else none := rfl

/-- An OVS word on the pins is accepted exactly while no batch runs, and held exactly while one does. -/
theorem pinAccepted_ovs_iff {r : Regs} {p : PinsIn} (hrst : p.rst = false) (hcv : p.cmdValid = true)
    (hovs : isOvsWord p.cmd = true) : (pinAccepted r p = true ↔ r.busy = false) ∧
      (pinHeld r p = true ↔ r.busy = true) := by
  simp [pinAccepted_eq, pinHeld_iff_ovs, hrst, hcv, hovs]

/-- Settles O55: a held word is an OVS word met by a running batch, so kept on the port it meets `BUSY` again. -/
theorem heldWordStaysOnThePortUntilItIsAccepted : Obligations.HeldWordStaysOnThePortUntilItIsAccepted := by
  refine ⟨fun r p => ⟨pinAccepted_iff r p, pinHeld_iff r p⟩, fun r p hheld => ?_, fun r p p' ps hheld hrst => ⟨?_, ?_⟩⟩
  · have hacc := pinAccepted_of_held hheld
    exact ⟨pinEdge_not_accepted hacc, by simp [pinOut, pinRspValid, hacc]⟩
  · intro hchanged
    rw [pinEdges_cons_cons, if_neg]
    rw [hostKeepsHeldWord_iff hheld hrst]
    rintro ⟨hcv, hcmd⟩
    simp [hcv, hcmd] at hchanged
  · intro hlawful
    obtain ⟨-, -, -, hovs⟩ := (pinHeld_iff_ovs r p).1 hheld
    rw [pinEdges_cons_cons, ne_eq, ite_eq_right_iff, Classical.not_imp, hostKeepsHeldWord_iff hheld hrst] at hlawful
    obtain ⟨⟨hcv, hcmd⟩, -⟩ := hlawful
    exact ⟨hcmd, pinAccepted_ovs_iff hrst hcv (hcmd ▸ hovs)⟩

/-! ### A stuck source (R112) -/

/-- With an OVS word on the port and nothing to deliver, a running batch only sees turns pass. -/
theorem step_stuck {s : State} {w : Word} {ws : List Word} (hb : s.busy = true) (hs : s.samples = [])
    (hw : s.words = w :: ws) (hovs : isOvsWord w = true) (hrst : ∀ t ∈ s.turns, t.isReset = false) :
    step s = .next { s with turns := s.turns.tail } := by
  cases ht : s.turns with
  | nil =>
    rw [step_noTurn ht, List.tail_nil, ← ht]
  | cons a ts =>
    have hheld : hostTurn { s with turns := ts } = .next { s with turns := ts } := hostTurn_held hw hb hovs
    have hsource : ({ s with turns := ts } : State).sourceTurn = { s with turns := ts } := sourceTurn_empty hs
    cases a with
    | host => exact (step_host ht).trans hheld
    | source => exact (step_turn ht).trans (congrArg _ hsource)
    | both => exact (step_both_running ht hb hheld).trans (congrArg _ hsource)
    | reset keeps => simp [ht, Turn.isReset] at hrst

theorem runFor_stuck (n : Nat) {s : State} {w : Word} {ws : List Word} (hb : s.busy = true) (hs : s.samples = [])
    (hw : s.words = w :: ws) (hovs : isOvsWord w = true) (hrst : ∀ t ∈ s.turns, t.isReset = false) :
    runFor n s = .next { s with turns := s.turns.drop n } := by
  induction n generalizing s with
  | zero => rfl
  | succ n ih =>
    have htail : ∀ t ∈ s.turns.tail, t.isReset = false := fun t ht => hrst t (List.mem_of_mem_tail ht)
    rw [runFor_succ (step_stuck hb hs hw hovs hrst), ih (s := { s with turns := s.turns.tail }) hb hs hw htail,
      List.drop_tail]

/-- Settles O53: by induction on the steps, each of which uses up a turn and no more. -/
theorem stuckSourceHoldsAnOvsWordForEver : Obligations.StuckSourceHoldsAnOvsWordForEver :=
  fun n _ _ _ hb hs hw hovs hrst => ⟨_, runFor_stuck n hb hs hw hovs hrst, rfl, rfl, rfl⟩

end Sys2Proof.Machine
end

section
/-! Sequences of words of the CRC unit (spec/42_composite.md R121; spec/70_reset_and_hazards.md R154): in any
interleaving without reset each of the host's turns answers one word, so the words act on `CRC` as on their own. -/

namespace Sys2Proof.Machine

/-- `CRC` after a list of words none of which is an OVS word. -/
def crcAfterWords (c : Byte) (cs : List Word) : Byte := cs.foldl (fun c w => crcAfter c (instrOf w)) c

/-- The responses to a list of words none of which is an OVS word. -/
def crcResponsesTo : Byte → List Word → List Word
  | _, [] => []
  | c, w :: cs => crcResponses c (instrOf w) ++ crcResponsesTo (crcAfter c (instrOf w)) cs

@[simp] theorem crcAfterWords_nil (c : Byte) : crcAfterWords c [] = c := rfl

@[simp] theorem crcAfterWords_cons (c : Byte) (w : Word) (cs : List Word) :
    crcAfterWords c (w :: cs) = crcAfterWords (crcAfter c (instrOf w)) cs := rfl

theorem crcAfterWords_append (c : Byte) (cs cs' : List Word) :
    crcAfterWords c (cs ++ cs') = crcAfterWords (crcAfterWords c cs) cs' := List.foldl_append

@[simp] theorem crcResponsesTo_nil (c : Byte) : crcResponsesTo c [] = [] := rfl

@[simp] theorem crcResponsesTo_cons (c : Byte) (w : Word) (cs : List Word) : crcResponsesTo c (w :: cs) =
    crcResponses c (instrOf w) ++ crcResponsesTo (crcAfter c (instrOf w)) cs := rfl

theorem crcResponsesTo_append (c : Byte) (cs cs' : List Word) :
    crcResponsesTo c (cs ++ cs') = crcResponsesTo c cs ++ crcResponsesTo (crcAfterWords c cs) cs' := by
  induction cs generalizing c with
  | nil => rfl
  | cons w cs ih => simp [ih]

/-- Between `s` and `u` the host's words `cs` were answered, and nothing else reached `CRC` or the host. -/
structure Answered (cs : List Word) (s u : State) : Prop where
  words : s.words = cs ++ u.words
  crc : u.crc = crcAfterWords s.crc cs
  responses : u.responses = s.responses ++ crcResponsesTo s.crc cs

theorem Answered.trans {cs cs' : List Word} {s t u : State} (h : Answered cs s t) (h' : Answered cs' t u) :
    Answered (cs ++ cs') s u where
  words := by rw [h.words, h'.words, List.append_assoc]
  crc := by rw [h'.crc, h.crc, crcAfterWords_append]
  responses := by rw [h'.responses, h.responses, h.crc, crcResponsesTo_append, List.append_assoc]

/-- The turns to come have no part in it. -/
theorem Answered.of_turns {cs : List Word} {ts : List Turn} {s u : State}
    (h : Answered cs { s with turns := ts } u) : Answered cs s u :=
  ⟨h.words, h.crc, h.responses⟩

theorem answered_sourceTurn (s : State) : Answered [] s s.sourceTurn := by
  obtain ⟨hcrc, hwords, hresponses⟩ := sourceTurn_frame s
  exact ⟨hwords.symm, hcrc, by simpa using hresponses⟩

theorem answered_answer {s : State} {w : Word} {ws : List Word} (hw : s.words = w :: ws) :
    Answered [w] s (s.answer w) where
  words := by rw [State.answer, hw]; rfl
  crc := rfl
  responses := by simp [State.answer]

/-- At an edge at which the host offers a word that is no OVS word, that word is answered. -/
theorem step_answered {s : State} {a : Turn} {ts : List Turn} {w : Word} {ws : List Word} (ht : s.turns = a :: ts)
    (hrst : a.isReset = false) (hacts : a.hostActs = true) (hw : s.words = w :: ws) (hovs : isOvsWord w = false) :
    ∃ t, step s = .next t ∧ Answered [w] s t := by
  have hhost : hostTurn { s with turns := ts } = .next (({ s with turns := ts } : State).answer w) :=
    hostTurn_answer hw hovs
  have hanswered : Answered [w] s (({ s with turns := ts } : State).answer w) := .of_turns (answered_answer hw)
  cases a with
  | host => exact ⟨_, (step_host ht).trans hhost, hanswered⟩
  | source => cases hacts
  | both =>
    cases hb : s.busy with
    | false => exact ⟨_, (step_both_idle ht hb).trans hhost, hanswered⟩
    | true => exact ⟨_, step_both_running ht hb hhost, hanswered.trans (answered_sourceTurn _)⟩
  | reset keeps => cases hrst

theorem step_answered_nothing {s : State} {a : Turn} {ts : List Turn} (ht : s.turns = a :: ts)
    (hrst : a.isReset = false) (hacts : a.hostActs = false) : ∃ t, step s = .next t ∧ Answered [] s t := by
  cases a with
  | host => cases hacts
  | source => exact ⟨_, step_turn ht, .of_turns (answered_sourceTurn _)⟩
  | both => cases hacts
  | reset keeps => cases hrst

/-- In any interleaving without reset in which the host acts once for each word, all are answered. -/
theorem runFor_answered {ts rest : List Turn} {cs ws : List Word} {s : State} (hw : s.words = cs ++ ws)
    (ht : s.turns = ts ++ rest) (hrst : ∀ t ∈ ts, t.isReset = false) (hcount : ts.countP Turn.hostActs = cs.length)
    (hovs : ∀ w ∈ cs, isOvsWord w = false) :
    ∃ u, runFor ts.length s = .next u ∧ Answered cs s u ∧ u.turns = rest := by
  induction ts generalizing s cs with
  | nil =>
    obtain rfl : cs = [] := List.length_eq_zero_iff.1 hcount.symm
    exact ⟨s, rfl, ⟨rfl, rfl, by simp⟩, ht⟩
  | cons a ts ih =>
    obtain ⟨ha, hts⟩ := List.forall_mem_cons.1 hrst
    cases hacts : a.hostActs with
    | true =>
      rw [List.countP_cons_of_pos hacts] at hcount
      obtain ⟨w, cs, rfl⟩ : ∃ w cs', cs = w :: cs' := List.exists_cons_of_length_eq_add_one hcount.symm
      obtain ⟨hw0, hcs⟩ := List.forall_mem_cons.1 hovs
      obtain ⟨t, hstep, hfirst⟩ := step_answered ht ha hacts hw hw0
      have hwt : t.words = cs ++ ws := by simpa [hw] using hfirst.words.symm
      obtain ⟨u, hrun, hrest, hturns⟩ := ih hwt (by rw [step_turns hstep, ht]; rfl) hts (Nat.succ.inj hcount) hcs
      exact ⟨u, (runFor_succ hstep).trans hrun, hfirst.trans hrest, hturns⟩
    | false =>
      rw [List.countP_cons_of_neg (by simp [hacts])] at hcount
      obtain ⟨t, hstep, hfirst⟩ := step_answered_nothing ht ha hacts
      have hwt : t.words = cs ++ ws := by simpa [hw] using hfirst.words.symm
      obtain ⟨u, hrun, hrest, hturns⟩ := ih hwt (by rw [step_turns hstep, ht]; rfl) hts hcount hovs
      exact ⟨u, (runFor_succ hstep).trans hrun, hfirst.trans hrest, hturns⟩

/-! ### The words of the two sequences -/

/-- The words of R154: CRC_UPD of each byte, then CRC_GET. -/
def crcContinueWords (m : List Byte) : List Word := (m.map Instr.crcUpd ++ [Instr.crcGet]).map encode

theorem crc8Words_eq_cons (m : List Byte) : crc8Words m = encode .crcClr :: crcContinueWords m := rfl

theorem crcAfterWords_crcContinueWords (c : Byte) (m : List Byte) :
    crcAfterWords c (crcContinueWords m) = crcFold c m := by
  induction m generalizing c with
  | nil => rfl
  | cons b m ih =>
    have hb : crcAfter c (instrOf (encode (.crcUpd b))) = crcByte c b := by rw [instrOf_encode, crcAfter]
    calc crcAfterWords c (crcContinueWords (b :: m))
      _ = crcAfterWords (crcAfter c (instrOf (encode (.crcUpd b)))) (crcContinueWords m) := rfl
      _ = crcFold c (b :: m) := by rw [hb, ih, crcFold_cons]

theorem crcResponsesTo_crcContinueWords (c : Byte) (m : List Byte) :
    crcResponsesTo c (crcContinueWords m) = [crcResponse (crcFold c m)] := by
  induction m generalizing c with
  | nil => rfl
  | cons b m ih =>
    have hb : crcAfter c (instrOf (encode (.crcUpd b))) = crcByte c b := by rw [instrOf_encode, crcAfter]
    have hnone : crcResponses c (instrOf (encode (.crcUpd b))) = [] := by simp [instrOf_encode, crcResponses]
    calc crcResponsesTo c (crcContinueWords (b :: m))
      _ = crcResponses c (instrOf (encode (.crcUpd b))) ++
          crcResponsesTo (crcAfter c (instrOf (encode (.crcUpd b)))) (crcContinueWords m) := rfl
      _ = [crcResponse (crcFold c (b :: m))] := by rw [hb, hnone, ih, crcFold_cons, List.nil_append]

theorem isOvsWord_crcContinueWords (m : List Byte) : ∀ w ∈ crcContinueWords m, isOvsWord w = false := by
  simp [crcContinueWords, isOvsWord_encode, Instr.isOvs, or_imp, forall_and]

/-- Settles O50: the words are answered in any interleaving, CRC_UPD by CRC_UPD from the old register. -/
theorem withoutClearTheChecksumContinues : Obligations.WithoutClearTheChecksumContinues := by
  intro s m ws ts rest hw ht hrst hcount
  have hlen : ts.countP Turn.hostActs = (crcContinueWords m).length := by simp [crcContinueWords, hcount]
  obtain ⟨u, hrun, hanswered, -⟩ := runFor_answered (cs := crcContinueWords m) hw ht hrst hlen
    (isOvsWord_crcContinueWords m)
  have hwords : crcContinueWords m ++ ws = crcContinueWords m ++ u.words := hw.symm.trans hanswered.words
  refine ⟨u, hrun, (List.append_cancel_left hwords).symm, ?_, ?_⟩
  · exact hanswered.crc.trans (crcAfterWords_crcContinueWords s.crc m)
  · rw [hanswered.responses, crcResponsesTo_crcContinueWords]
    rfl

/-- Settles O49: as O50, with CRC_CLR in front, after which the old register does not matter. -/
theorem crc8SequenceRespondsWithTheChecksum : Obligations.Crc8SequenceRespondsWithTheChecksum := by
  intro s m ws ts rest hw ht hrst hcount
  have hlen : ts.countP Turn.hostActs = (crc8Words m).length := by
    simp [crc8Words_eq_cons, crcContinueWords, hcount]
  have hovs : ∀ w ∈ crc8Words m, isOvsWord w = false :=
    List.forall_mem_cons.2 ⟨isOvsWord_encode .crcClr, isOvsWord_crcContinueWords m⟩
  obtain ⟨u, hrun, hanswered, hturns⟩ := runFor_answered hw ht hrst hlen hovs
  have hclear : crcAfter s.crc (instrOf (encode .crcClr)) = 0x00#8 := by rw [instrOf_encode, crcAfter]
  have hnone : crcResponses s.crc (instrOf (encode .crcClr)) = [] := by simp [instrOf_encode, crcResponses]
  refine ⟨u, hrun, (List.append_cancel_left (hw.symm.trans hanswered.words)).symm, hturns, ?_, ?_⟩
  · rw [hanswered.crc, crc8Words_eq_cons, crcAfterWords_cons, hclear, crcAfterWords_crcContinueWords]
    rfl
  · rw [hanswered.responses, crc8Words_eq_cons, crcResponsesTo_cons, hclear, hnone, crcResponsesTo_crcContinueWords]
    rfl

end Sys2Proof.Machine
end

section
/-! A running batch among the host's turns (spec/41_oversampling.md R104, R105; spec/42_composite.md R123): until the
sixteenth delivery an OVS word waits on the port, the words before it are answered, and the samples are summed. -/

namespace Sys2Proof.Machine

/-! ### Runs -/

theorem runFor_add {m : Nat} (n : Nat) {s t : State} (h : runFor m s = .next t) : runFor (m + n) s = runFor n t := by
  induction m generalizing s with
  | zero =>
    rw [runFor_zero] at h
    cases h
    rw [Nat.zero_add]
  | succ m ih =>
    obtain ⟨s', hstep⟩ := step_next s
    rw [runFor_succ hstep] at h
    rw [Nat.succ_add, runFor_succ hstep, ih h]

/-! ### The progress of a batch -/

/-- A batch that has not taken its sixteen samples is running, and one that has is at rest. -/
def State.InBatch (s : State) : Prop := s.busy = decide (s.cnt ≠ 16#5)

/-- `s` after the host's words `cs` have been answered and the samples `vs` delivered, with the turns `ts` to come. -/
def State.advance (cs : List Word) (vs : List Sample) (ts : List Turn) (s : State) : State :=
  { s with
    sum := s.sum + ovsSum vs, cnt := s.cnt + BitVec.ofNat 5 vs.length,
    busy := decide (s.cnt + BitVec.ofNat 5 vs.length ≠ 16#5),
    words := s.words.drop cs.length, samples := s.samples.drop vs.length, turns := ts,
    crc := crcAfterWords s.crc cs, responses := s.responses ++ crcResponsesTo s.crc cs }

theorem advance_inBatch (cs : List Word) (vs : List Sample) (ts : List Turn) (s : State) :
    (s.advance cs vs ts).InBatch := rfl

/-- Words alone leave the registers of the batch as they are. -/
theorem advance_words {s : State} (hbatch : s.InBatch) (cs : List Word) (ts : List Turn) : s.advance cs [] ts =
    { s with
      words := s.words.drop cs.length, turns := ts, crc := crcAfterWords s.crc cs,
      responses := s.responses ++ crcResponsesTo s.crc cs } := by
  have hcnt : s.cnt + BitVec.ofNat 5 ([] : List Sample).length = s.cnt := BitVec.add_zero s.cnt
  rw [State.advance, hcnt, ← hbatch, ovsSum_nil, BitVec.add_zero]
  rfl

theorem advance_nil {s : State} (hbatch : s.InBatch) (ts : List Turn) :
    s.advance [] [] ts = { s with turns := ts } := by
  simp [advance_words hbatch]

theorem advance_advance (cs cs' : List Word) (vs vs' : List Sample) (ts ts' : List Turn) (s : State) :
    (s.advance cs vs ts).advance cs' vs' ts' = s.advance (cs ++ cs') (vs ++ vs') ts' := by
  have hsum : s.sum + ovsSum vs + ovsSum vs' = s.sum + ovsSum (vs ++ vs') := by
    rw [BitVec.add_assoc, ovsSum_eq_sum, ovsSum_eq_sum, ovsSum_eq_sum, List.map_append, List.sum_append]
  have hcnt : s.cnt + BitVec.ofNat 5 vs.length + BitVec.ofNat 5 vs'.length =
      s.cnt + BitVec.ofNat 5 (vs ++ vs').length := by
    rw [BitVec.add_assoc, List.length_append, BitVec.ofNat_add]
  simp only [State.advance, hsum, hcnt, List.drop_drop, List.length_append, crcAfterWords_append,
    crcResponsesTo_append, List.append_assoc]

theorem advance_cnt_toNat (cs : List Word) {vs : List Sample} (ts : List Turn) {s : State}
    (hlen : s.cnt.toNat + vs.length ≤ 16) : (s.advance cs vs ts).cnt.toNat = s.cnt.toNat + vs.length := by
  simp only [State.advance, BitVec.toNat_add, BitVec.toNat_ofNat]
  omega

theorem State.InBatch.busy {s : State} (hbatch : s.InBatch) (hcnt : s.cnt.toNat < 16) : s.busy = true := by
  rw [hbatch, decide_eq_true_iff]
  intro heq
  simp [heq] at hcnt

/-- The host offers the words `cs`, none of them an OVS word, and behind them an OVS word. -/
def State.OvsWordBehind (cs : List Word) (s : State) : Prop :=
  (∀ c ∈ cs, isOvsWord c = false) ∧ ∃ w ws, s.words = cs ++ w :: ws ∧ isOvsWord w = true

theorem drop_length_take_append {α : Type} (n : Nat) (l l' : List α) :
    (l ++ l').drop (l.take n).length = l.drop n ++ l' := by
  obtain h | h := Nat.le_total n l.length
  · rw [List.length_take_of_le h, List.drop_append_of_le_length h]
  · rw [List.take_of_length_le h, List.drop_of_length_le h, List.drop_left, List.nil_append]

theorem State.OvsWordBehind.advance {cs : List Word} {s : State} (h : s.OvsWordBehind cs) (n : Nat)
    (vs : List Sample) (ts : List Turn) : (s.advance (cs.take n) vs ts).OvsWordBehind (cs.drop n) := by
  obtain ⟨hcs, w, ws, hw, hovs⟩ := h
  exact ⟨fun c hc => hcs c (List.mem_of_mem_drop hc), w, ws,
    (congrArg (List.drop _) hw).trans (drop_length_take_append n cs _), hovs⟩

/-- The samples still to be delivered after the first `n` of `vs`. -/
theorem samples_advance_take {vs more : List Sample} {s : State} (hs : s.samples = vs ++ more) (n : Nat)
    (cs : List Word) (ts : List Turn) : (s.advance cs (vs.take n) ts).samples = vs.drop n ++ more :=
  (congrArg (List.drop _) hs).trans (drop_length_take_append n vs more)

/-! ### One turn of a running batch -/

/-- The host's turn answers the word before the waiting OVS word; when that is on the port it is held. -/
theorem hostTurn_advance {s : State} {cs : List Word} (hbatch : s.InBatch) (hb : s.busy = true)
    (hwait : s.OvsWordBehind cs) : hostTurn s = .next (s.advance (cs.take 1) [] s.turns) := by
  obtain ⟨hcs, w, ws, hw, hovs⟩ := hwait
  cases cs with
  | nil => rw [List.take_nil, advance_nil hbatch, hostTurn_held hw hb hovs]
  | cons c cs =>
    rw [hostTurn_answer hw (hcs c List.mem_cons_self), advance_words hbatch]
    simp [State.answer]

theorem sourceTurn_advance {s : State} {v : Sample} {vs : List Sample} (hb : s.busy = true)
    (hs : s.samples = v :: vs) : s.sourceTurn = s.advance [] [v] s.turns := by
  have hsum : ovsSum [v] = zext14 v := by rw [ovsSum_cons, ovsSum_nil, BitVec.add_zero]
  rw [sourceTurn_deliver hb hs, addSample_running (by exact hb)]
  simp [State.advance, hs, hsum]

/-- One turn without reset: a word is answered if the host acts and has one before the waiting OVS word, and the next
sample is delivered if the source acts. -/
theorem step_advance {s : State} {a : Turn} {ts : List Turn} {cs : List Word} {vs more : List Sample}
    (hbatch : s.InBatch) (hb : s.busy = true) (ht : s.turns = a :: ts) (hrst : a.isReset = false)
    (hwait : s.OvsWordBehind cs) (hs : s.samples = vs ++ more) (hvs : [a].countP Turn.sourceActs ≤ vs.length) :
    step s = .next
      (s.advance (cs.take ([a].countP Turn.hostActs)) (vs.take ([a].countP Turn.sourceActs)) ts) := by
  have hhost : hostTurn { s with turns := ts } = .next (s.advance (cs.take 1) [] ts) :=
    hostTurn_advance (s := { s with turns := ts }) hbatch hb hwait
  cases a with
  | host => exact (step_host ht).trans hhost
  | source =>
    obtain ⟨v, vs, rfl⟩ := List.exists_cons_of_length_pos hvs
    exact (step_turn ht).trans (congrArg _ (sourceTurn_advance (s := { s with turns := ts }) hb hs))
  | both =>
    obtain ⟨v, vs, rfl⟩ := List.exists_cons_of_length_pos hvs
    have hb' : (s.advance (cs.take 1) [] ts).busy = true := by
      rw [advance_words hbatch]
      exact hb
    rw [step_both_running ht hb hhost, sourceTurn_advance hb' hs, advance_advance, List.append_nil, List.nil_append]
    rfl
  | reset keeps => cases hrst

/-! ### Many turns of a running batch -/

theorem countP_pos_of_getLast? {ts : List Turn} {p : Turn → Bool} (hne : ts ≠ [])
    (h : ∀ t ∈ ts.getLast?, p t = true) : 0 < ts.countP p :=
  List.countP_pos_iff.2 ⟨ts.getLast hne, List.getLast_mem hne, h _ (List.getLast?_eq_some_getLast hne)⟩

/-- While an OVS word waits: a batch, in any interleaving without reset that ends with a delivery and delivers no more
than the batch lacks. -/
theorem runFor_advance {ts rest : List Turn} {s : State} {cs : List Word} {vs more : List Sample}
    (hbatch : s.InBatch) (hlen : s.cnt.toNat + vs.length ≤ 16) (ht : s.turns = ts ++ rest)
    (hrst : ∀ t ∈ ts, t.isReset = false) (hlast : ∀ t ∈ ts.getLast?, t.sourceActs = true)
    (hwait : s.OvsWordBehind cs) (hs : s.samples = vs ++ more) (hcount : ts.countP Turn.sourceActs = vs.length) :
    runFor ts.length s = .next (s.advance (cs.take (ts.countP Turn.hostActs)) vs rest) := by
  induction ts generalizing s cs vs with
  | nil =>
    obtain rfl : vs = [] := List.length_eq_zero_iff.1 hcount.symm
    have hrest : s.turns = rest := ht
    rw [List.countP_nil, List.take_zero, advance_nil hbatch, ← hrest]
    rfl
  | cons a ts ih =>
    obtain ⟨ha, hts⟩ := List.forall_mem_cons.1 hrst
    have hpos := countP_pos_of_getLast? (List.cons_ne_nil a ts) hlast
    have hsplit (p : Turn → Bool) : (a :: ts).countP p = [a].countP p + ts.countP p :=
      List.countP_append (l₁ := [a])
    rw [hsplit] at hcount hpos
    have hlast' : ∀ t ∈ ts.getLast?, t.sourceActs = true := fun t h => hlast t (by simp_all [List.getLast?_cons])
    have hcount' : ts.countP Turn.sourceActs = (vs.drop ([a].countP Turn.sourceActs)).length := by
      rw [List.length_drop]
      omega
    have htake : (vs.take ([a].countP Turn.sourceActs)).length = [a].countP Turn.sourceActs := by
      rw [List.length_take]
      omega
    have hstep := step_advance hbatch (hbatch.busy (by omega)) ht ha hwait hs (by omega)
    have hcnt := advance_cnt_toNat (cs.take ([a].countP Turn.hostActs)) (ts ++ rest) (s := s)
      (vs := vs.take ([a].countP Turn.sourceActs)) (by omega)
    have hrun := ih (advance_inBatch _ _ _ s) (by rw [hcnt]; omega) rfl hts hlast' (hwait.advance _ _ _)
      (samples_advance_take hs _ _ _) hcount'
    rw [advance_advance, List.take_append_drop, ← List.take_add, ← hsplit] at hrun
    exact (runFor_succ hstep).trans hrun

/-- A batch among the source's turns alone, whatever the host has to offer. -/
theorem runFor_deliveries {vs more : List Sample} {rest : List Turn} {s : State} (hbatch : s.InBatch)
    (hlen : s.cnt.toNat + vs.length ≤ 16) (hs : s.samples = vs ++ more)
    (ht : s.turns = List.replicate vs.length .source ++ rest) :
    runFor vs.length s = .next (s.advance [] vs rest) := by
  induction vs generalizing s with
  | nil =>
    have hrest : s.turns = rest := ht
    rw [advance_nil hbatch, ← hrest]
    rfl
  | cons v vs ih =>
    rw [List.length_cons] at hlen
    have hturns : s.turns = .source :: (List.replicate vs.length .source ++ rest) := ht
    have hb := hbatch.busy (by omega)
    have hstep : step s = .next (s.advance [] [v] (List.replicate vs.length .source ++ rest)) :=
      (step_turn hturns).trans (congrArg _ (sourceTurn_advance (by exact hb) (by exact hs)))
    have hcnt := advance_cnt_toNat [] (List.replicate vs.length .source ++ rest) (s := s) (vs := [v])
      (by rw [List.length_singleton]; omega)
    rw [List.length_singleton] at hcnt
    have hrun := ih (s := s.advance [] [v] (List.replicate vs.length .source ++ rest)) rfl (by rw [hcnt]; omega)
      (samples_advance_take hs 1 [] _) rfl
    rw [advance_advance] at hrun
    exact (runFor_succ hstep).trans hrun

/-! ### A batch that has taken what it lacked -/

theorem inBatch_of_running {s : State} (hinv : Inv s) (hb : s.busy = true) : s.InBatch := by
  have hrun := hinv.running hb
  have hcnt : s.cnt ≠ 16#5 := fun h => by simp [h] at hrun
  rw [State.InBatch, hb, decide_eq_true hcnt]

theorem advance_done {s : State} {vs : List Sample} (hlen : s.cnt.toNat + vs.length = 16) (cs : List Word)
    (ts : List Turn) : (s.advance cs vs ts).cnt = 16#5 ∧ (s.advance cs vs ts).busy = false := by
  have hcnt : (s.advance cs vs ts).cnt = 16#5 :=
    BitVec.eq_of_toNat_eq ((advance_cnt_toNat cs ts hlen.le).trans hlen)
  exact ⟨hcnt, by rw [advance_inBatch cs vs ts s, hcnt]; rfl⟩

/-- R107: the sum of a batch is exact. -/
theorem advance_sum_toNat {s : State} {vs : List Sample} (hinv : Inv s) (hlen : s.cnt.toNat + vs.length = 16)
    (cs : List Word) (ts : List Turn) :
    (s.advance cs vs ts).sum.toNat = s.sum.toNat + (vs.map BitVec.toNat).sum := by
  have hsum := hinv.sumBound
  have hle := sum_toNat_le vs
  rw [State.advance, BitVec.toNat_add, ovsSum_toNat (by omega), Nat.mod_eq_of_lt]
  omega

/-- Settles O54: each of the source's turns adds a sample, and the last brings the count to 16. -/
theorem batchCompletesOnceItsSamplesAreDelivered : Obligations.BatchCompletesOnceItsSamplesAreDelivered := by
  intro s vs more rest hinv hb hs hlen ht
  obtain ⟨hcnt, hbusy⟩ := advance_done hlen [] rest
  have hsamples : (s.advance [] vs rest).samples = more := (congrArg (List.drop _) hs).trans List.drop_left
  exact ⟨_, runFor_deliveries (inBatch_of_running hinv hb) hlen.le hs ht, hbusy, hcnt, hsamples, rfl,
    advance_sum_toNat hinv hlen [] rest, rfl, rfl, rfl, List.append_nil _⟩

end Sys2Proof.Machine
end

section
/-! READ_OVS (spec/42_composite.md R123): OVS_RUN, a batch that runs while OVS_GET waits, and OVS_GET. -/

namespace Sys2Proof.Machine

/-! ### The host's two words, offered while no batch runs (R102, R103) -/

/-- `s` after an accepted OVS_RUN of a valid channel. -/
def State.batchStarted (ch : Byte) (ws : List Word) (ts : List Turn) (s : State) : State :=
  { s with ch := channelLatch ch, sum := 0#14, cnt := 0#5, busy := true, words := ws, turns := ts }

theorem step_ovsRun_valid {s : State} {ch : Byte} {ws : List Word} {ts : List Turn} (hb : s.busy = false)
    (hch : ch.toNat < 8) (hw : s.words = encode (.ovsRun ch) :: ws) (ht : s.turns = .host :: ts) :
    step s = .next (s.batchStarted ch ws ts) := by
  rw [step_host_legal ht hw (decode_encode _), exec_ovsRun_valid (by exact hb) hch, accept_of_words (by exact hw)]
  rfl

theorem step_ovsRun_invalid {s : State} {ch : Byte} {ws : List Word} {ts : List Turn} (hb : s.busy = false)
    (hch : 8 ≤ ch.toNat) (hw : s.words = encode (.ovsRun ch) :: ws) (ht : s.turns = .host :: ts) : step s = .next
      { s with ch := channelLatch ch, sum := 0#14, cnt := 16#5, busy := false, words := ws, turns := ts } := by
  rw [step_host_legal ht hw (decode_encode _), exec_ovsRun_invalid (by exact hb) hch, accept_of_words (by exact hw)]

theorem step_ovsGet_idle {s : State} {ws : List Word} {ts : List Turn} (hb : s.busy = false)
    (hw : s.words = encode .ovsGet :: ws) (ht : s.turns = .host :: ts) : step s = .next
      { s with words := ws, turns := ts, responses := s.responses ++ [ovsResponse s.sum] } := by
  rw [step_host_legal ht hw (decode_encode _), exec_ovsGet_idle (by exact hb), accept_of_words (by exact hw)]
  rfl

/-- Settles O52: OVS_RUN completes in its own step with the sum zero, which OVS_GET reads in the next. -/
theorem readOvsOnAnInvalidChannelRespondsZero : Obligations.ReadOvsOnAnInvalidChannelRespondsZero := by
  intro s ch ws rest hb hch hw ht
  have hrun := runFor_succ (n := 1) (step_ovsRun_invalid hb hch hw ht)
  rw [runFor_one, step_ovsGet_idle rfl rfl rfl, ovsResponse_zero] at hrun
  exact ⟨_, hrun, rfl, rfl, rfl, rfl, rfl, rfl, rfl, rfl⟩

/-! ### The sequence on a valid channel -/

/-- The state that a READ_OVS with the words `cs` between its two leaves behind. -/
def State.afterReading (ch : Byte) (cs ws : List Word) (vs more : List Sample) (rest : List Turn) (s : State) : State :=
  { s with
    ch := channelLatch ch, sum := ovsSum vs, cnt := 16#5, busy := false,
    words := ws, samples := more, turns := rest, crc := crcAfterWords s.crc cs,
    responses := s.responses ++ crcResponsesTo s.crc cs ++ [(readOversampled ch vs).setWidth 16] }

/-- Turns in which a whole batch is delivered, the sixteenth sample in `last`, and in which the host acts at least `n`
times before that. -/
structure BatchTurns (n : Nat) (mid : List Turn) (last : Turn) : Prop where
  noReset : ∀ t ∈ mid, t.isReset = false
  fifteen : mid.countP Turn.sourceActs = 15
  hostActs : n ≤ mid.countP Turn.hostActs
  sixteenth : last.sourceActs = true

theorem BatchTurns.all_noReset {n : Nat} {mid : List Turn} {last : Turn} (h : BatchTurns n mid last) :
    ∀ t ∈ mid ++ [last], t.isReset = false := by
  have hsource := h.sixteenth
  have hlast : last.isReset = false := by
    cases last with
    | host => rfl
    | source => rfl
    | both => rfl
    | reset keeps => cases hsource
  simpa [or_imp, forall_and, hlast] using h.noReset

/-- A batch that has just started has, after its sixteenth delivery in the turn `last`, answered the words `cs` before
the waiting OVS word and summed the samples. -/
theorem runFor_wholeBatch {s : State} {cs : List Word} {vs more : List Sample} {mid : List Turn} {last : Turn}
    {rest : List Turn} (hb : s.busy = true) (hcnt : s.cnt = 0#5) (hwait : s.OvsWordBehind cs)
    (hs : s.samples = vs ++ more) (hvs : vs.length = 16) (ht : s.turns = mid ++ last :: rest)
    (hturns : BatchTurns cs.length mid last) : runFor (mid.length + 1) s = .next (s.advance cs vs rest) := by
  have hbatch : s.InBatch := by rw [State.InBatch, hb, hcnt]; rfl
  have hlen : s.cnt.toNat + vs.length ≤ 16 := by rw [hcnt, hvs]; rfl
  have hhost : cs.length ≤ (mid ++ [last]).countP Turn.hostActs := by
    rw [List.countP_append]
    exact Nat.le_add_right_of_le hturns.hostActs
  have hrun := runFor_advance (ts := mid ++ [last]) (rest := rest) hbatch hlen (by simp [ht]) hturns.all_noReset
    (by simp [hturns.sixteenth]) hwait hs (by simp [hturns.fifteen, hturns.sixteenth, hvs])
  rwa [List.take_of_length_le hhost, List.length_append, List.length_singleton] at hrun

/-- R123 with other words between: OVS_RUN starts a batch, which completes while OVS_GET waits behind `cs`, and the
host's next turn lets OVS_GET through. -/
theorem runFor_readOvs {s : State} {ch : Byte} {cs ws : List Word} {vs more : List Sample} {mid : List Turn}
    {last : Turn} {rest : List Turn} (hb : s.busy = false) (hch : ch.toNat < 8)
    (hcs : ∀ w ∈ cs, isOvsWord w = false) (hw : s.words = encode (.ovsRun ch) :: cs ++ encode .ovsGet :: ws)
    (hs : s.samples = vs ++ more) (hvs : vs.length = 16) (ht : s.turns = .host :: mid ++ last :: .host :: rest)
    (hturns : BatchTurns cs.length mid last) :
    runFor (mid.length + 3) s = .next (s.afterReading ch cs ws vs more rest) := by
  have hstart := step_ovsRun_valid (ws := cs ++ encode .ovsGet :: ws) (ts := mid ++ last :: .host :: rest) hb hch hw ht
  have hwait : (s.batchStarted ch (cs ++ encode .ovsGet :: ws) (mid ++ last :: .host :: rest)).OvsWordBehind cs :=
    ⟨hcs, encode .ovsGet, ws, rfl, isOvsWord_encode .ovsGet⟩
  have hbatch := runFor_wholeBatch rfl rfl hwait hs hvs rfl hturns
  obtain ⟨hcnt, hidle⟩ := advance_done (s := s.batchStarted ch (cs ++ encode .ovsGet :: ws)
    (mid ++ last :: .host :: rest)) (by rw [hvs]; rfl) cs (.host :: rest)
  have hsamples : s.samples.drop vs.length = more := by rw [hs, List.drop_left]
  have hresponse : ovsResponse (ovsSum vs) = (readOversampled ch vs).setWidth 16 := by
    rw [readOversampled_valid hch]
    rfl
  rw [runFor_succ hstart, runFor_add 1 hbatch, runFor_one, step_ovsGet_idle hidle List.drop_left rfl, hcnt, hidle]
  simp [State.advance, State.batchStarted, State.afterReading, hsamples, hresponse]

/-- Settles O51: READ_OVS with no word between its two. -/
theorem readOvsSequenceRespondsWithTheReading : Obligations.ReadOvsSequenceRespondsWithTheReading := by
  intro s ch ws vs more mid last rest hb hch hw hs hvs ht hrst hmid hlast
  have hrun := runFor_readOvs (cs := []) hb hch (by simp) hw hs hvs ht ⟨hrst, hmid, Nat.zero_le _, hlast⟩
  refine ⟨_, hrun, rfl, rfl, rfl, ?_, ovsSum_toNat hvs.le, rfl, rfl, rfl, rfl⟩
  simp [State.afterReading]

/-! ### Behind an earlier batch (R66) -/

/-- A held OVS word waits out the batch that runs, if one does; nothing but that batch and the turns moves. -/
theorem runFor_until_idle {s : State} {pre rest : List Turn} {old more : List Sample} (hinv : Inv s)
    (hwait : s.OvsWordBehind []) (hs : s.samples = old ++ more)
    (hold : old.length = if s.busy = true then 16 - s.cnt.toNat else 0) (ht : s.turns = pre ++ rest)
    (hrst : ∀ t ∈ pre, t.isReset = false) (hcount : pre.countP Turn.sourceActs = old.length)
    (hlast : ∀ t ∈ pre.getLast?, t.sourceActs = true) :
    ∃ t, runFor pre.length s = .next t ∧ t.busy = false ∧ t.words = s.words ∧ t.samples = more ∧ t.turns = rest ∧
      t.crc = s.crc ∧ t.responses = s.responses := by
  cases hb : s.busy with
  | false =>
    rw [if_neg (by simp [hb])] at hold
    obtain rfl : old = [] := List.length_eq_zero_iff.1 hold
    obtain rfl : pre = [] := by
      by_contra hne
      exact (countP_pos_of_getLast? hne hlast).ne' hcount
    exact ⟨s, rfl, hb, rfl, hs, ht, rfl, rfl⟩
  | true =>
    rw [if_pos hb] at hold
    have hlen : s.cnt.toNat + old.length = 16 := by
      have hrun := hinv.running hb
      omega
    have hrun := runFor_advance (inBatch_of_running hinv hb) hlen.le ht hrst hlast hwait hs hcount
    rw [List.take_nil] at hrun
    have hsamples : (s.advance [] old rest).samples = more := (congrArg (List.drop _) hs).trans List.drop_left
    exact ⟨_, hrun, (advance_done hlen [] rest).2, rfl, hsamples, rfl, rfl, List.append_nil _⟩

/-- The words between, on their own. -/
theorem runFor_words_alone {cs : List Word} (s : State) (hcs : ∀ w ∈ cs, isOvsWord w = false) :
    ∃ t, runFor cs.length { s with words := cs, turns := List.replicate cs.length .host } = .next t ∧
      t.crc = crcAfterWords s.crc cs ∧ t.responses = s.responses ++ crcResponsesTo s.crc cs := by
  have hrst : ∀ t ∈ List.replicate cs.length Turn.host, t.isReset = false := by simp [Turn.isReset]
  have hcount : (List.replicate cs.length Turn.host).countP Turn.hostActs = cs.length := by
    simp [List.countP_replicate, Turn.hostActs]
  obtain ⟨t, hrun, hanswered, -⟩ := runFor_answered
    (s := { s with words := cs, turns := List.replicate cs.length .host }) (ws := []) (rest := [])
    (List.append_nil cs).symm (List.append_nil _).symm hrst hcount hcs
  rw [List.length_replicate] at hrun
  exact ⟨t, hrun, hanswered.crc, hanswered.responses⟩

/-- Settles O56: the earlier batch completes while OVS_RUN is held; then READ_OVS with the words between, which are
answered as they are alone. -/
theorem readOvsIsUnmovedByAnEarlierBatchAndByCrcWords :
    Obligations.ReadOvsIsUnmovedByAnEarlierBatchAndByCrcWords := by
  intro s ch cs ws old vs more pre mid last rest hinv hch hcs hw hs hold hvs ht hrst hpre hpreLast hmid hhost hlast
  obtain ⟨hpreRst, hmidRst⟩ := List.forall_mem_append.1 hrst
  have hwait : s.OvsWordBehind [] :=
    ⟨by simp, encode (.ovsRun ch), cs ++ encode .ovsGet :: ws, by simp [hw], isOvsWord_encode (.ovsRun ch)⟩
  have hs' : s.samples = old ++ (vs ++ more) := by rw [hs, List.append_assoc]
  have ht' : s.turns = pre ++ (.host :: mid ++ last :: .host :: rest) := by rw [ht]; simp
  obtain ⟨t, hrunPre, hidle, hwords, hsamples, hturns, hcrc, hresponses⟩ :=
    runFor_until_idle hinv hwait hs' hold ht' hpreRst hpre hpreLast
  have hread := runFor_readOvs hidle hch hcs (hwords.trans hw) hsamples hvs hturns ⟨hmidRst, hmid, hhost, hlast⟩
  obtain ⟨a, halone, hacrc, haresponses⟩ := runFor_words_alone s hcs
  have hrun : runFor (pre.length + mid.length + 3) s = .next (t.afterReading ch cs ws vs more rest) := by
    rw [Nat.add_assoc, runFor_add _ hrunPre, hread]
  refine ⟨a, _, halone, hrun, rfl, rfl, rfl, ?_, ?_, ovsSum_toNat hvs.le, rfl, rfl, rfl⟩
  · rw [hacrc, ← hcrc]
    rfl
  · rw [haresponses, ← hcrc, ← hresponses]
    rfl

end Sys2Proof.Machine
end
